-- ==== Sys2Proof/Word.lean ====
section
/-! DEFINITION. The machine's word types: the 8-bit byte every bus access moves and the 16-bit address
(00_scope.md R9, R12). -/

namespace Sys2Proof

/-- An 8-bit value: A, X, Y, SP, P, and every byte on the bus (R9). -/
abbrev Byte := BitVec 8

/-- A 16-bit value: PC and CPU-bus addresses (R9). -/
abbrev Word := BitVec 16

end Sys2Proof
end

