-- ==== Sys2Proof/Syntax.lean ====
section
/-! DEFINITION. The instructions as syntax: the addressing-mode forms of each group of mnemonics, then the one inductive `Instr`,
with a constructor for each mnemonic of spec/opcode_table.json. A constructor's operand type has one constructor per mode the
opcode table gives that mnemonic (30_encoding.md R148), so that the 256 rows of the table are exactly the instructions'
(mnemonic, mode) pairs and, for the undefined opcodes, the operand's 105 values (log 12). -/

namespace Sys2Proof

/-- The memory addressing modes that leave an effective address by way of an operand byte or word (R135 to R144). -/
inductive Addr where
  | zp0 (z : Byte)
  | zpx (z : Byte)
  | zpy (z : Byte)
  | abs (w : Word)
  | abx (w : Word)
  | aby (w : Word)
  | izx (z : Byte)
  | izy (z : Byte)
deriving DecidableEq, Repr

/-- An operand that an operation reads: an immediate byte or a byte in memory (R145). -/
inductive Operand where
  | imm (b : Byte)
  | mem (m : Addr)
deriving DecidableEq, Repr

/-- The modes of LDA, ADC, SBC, AND, ORA, EOR and CMP. -/
inductive Src8 where
  | imm (b : Byte)
  | zp0 (z : Byte)
  | zpx (z : Byte)
  | abs (w : Word)
  | abx (w : Word)
  | aby (w : Word)
  | izx (z : Byte)
  | izy (z : Byte)
deriving DecidableEq, Repr

/-- The modes of LDX. -/
inductive LdxSrc where
  | imm (b : Byte)
  | zp0 (z : Byte)
  | zpy (z : Byte)
  | abs (w : Word)
  | aby (w : Word)
deriving DecidableEq, Repr

/-- The modes of LDY. -/
inductive LdySrc where
  | imm (b : Byte)
  | zp0 (z : Byte)
  | zpx (z : Byte)
  | abs (w : Word)
  | abx (w : Word)
deriving DecidableEq, Repr

/-- The modes of CPX and CPY. -/
inductive CpSrc where
  | imm (b : Byte)
  | zp0 (z : Byte)
  | abs (w : Word)
deriving DecidableEq, Repr

/-- The modes of BIT. -/
inductive BitSrc where
  | zp0 (z : Byte)
  | abs (w : Word)
deriving DecidableEq, Repr

/-- The modes of STA. -/
inductive StaDst where
  | zp0 (z : Byte)
  | zpx (z : Byte)
  | abs (w : Word)
  | abx (w : Word)
  | aby (w : Word)
  | izx (z : Byte)
  | izy (z : Byte)
deriving DecidableEq, Repr

/-- The modes of STX. -/
inductive StxDst where
  | zp0 (z : Byte)
  | zpy (z : Byte)
  | abs (w : Word)
deriving DecidableEq, Repr

/-- The modes of STY. -/
inductive StyDst where
  | zp0 (z : Byte)
  | zpx (z : Byte)
  | abs (w : Word)
deriving DecidableEq, Repr

/-- The modes of INC and DEC, and the memory modes of the shifts and rotates. -/
inductive RmwDst where
  | zp0 (z : Byte)
  | zpx (z : Byte)
  | abs (w : Word)
  | abx (w : Word)
deriving DecidableEq, Repr

/-- The operand of ASL, LSR, ROL and ROR: the accumulator (table mode IMP) or a byte in memory (R264). -/
inductive ShiftDst where
  | acc
  | mem (m : RmwDst)
deriving DecidableEq, Repr

/-- The operand of JMP: a target (ABS) or the address of a pointer (IND). -/
inductive JmpTarget where
  | abs (w : Word)
  | ind (w : Word)
deriving DecidableEq, Repr

/-- The instruction set: the 56 mnemonics of R148 and the undefined opcodes of R150 (mnemonic `???` in the table). A branch
carries its displacement byte, JSR its target, an undefined opcode its own value. BRK carries nothing: its second byte is a
padding byte that is never read (R131). -/
inductive Instr where
  -- loads, stores, transfers (41)
  | lda (m : Src8)
  | ldx (m : LdxSrc)
  | ldy (m : LdySrc)
  | sta (m : StaDst)
  | stx (m : StxDst)
  | sty (m : StyDst)
  | tax
  | tay
  | txa
  | tya
  | tsx
  | txs
  -- stack (42)
  | pha
  | php
  | pla
  | plp
  -- arithmetic, logic, compare, increment, decrement (43)
  | adc (m : Src8)
  | sbc (m : Src8)
  | and (m : Src8)
  | ora (m : Src8)
  | eor (m : Src8)
  | bit (m : BitSrc)
  | cmp (m : Src8)
  | cpx (m : CpSrc)
  | cpy (m : CpSrc)
  | inc (m : RmwDst)
  | inx
  | iny
  | dec (m : RmwDst)
  | dex
  | dey
  -- shifts and rotates (44)
  | asl (m : ShiftDst)
  | lsr (m : ShiftDst)
  | rol (m : ShiftDst)
  | ror (m : ShiftDst)
  -- control transfer (45)
  | jmp (m : JmpTarget)
  | jsr (w : Word)
  | rts
  | bcc (d : Byte)
  | bcs (d : Byte)
  | beq (d : Byte)
  | bmi (d : Byte)
  | bne (d : Byte)
  | bpl (d : Byte)
  | bvc (d : Byte)
  | bvs (d : Byte)
  -- flags, system, undefined (46)
  | clc
  | cld
  | cli
  | clv
  | sec
  | sed
  | sei
  | nop
  | brk
  | rti
  | undef (op : Byte)
deriving DecidableEq, Repr

end Sys2Proof
end

