-- ==== Sys2Proof/Decode.lean ====
section
/-! DEFINITION. The decoder, total on any bytes, and after it the encoder. The decoder indexes the 256-entry table of 30_encoding.md
R147 with the opcode byte, as R146 says; the encoder is written from the mnemonic table of R148. -/

namespace Sys2Proof

/-- What the table says stands after an opcode byte (R130, R131): nothing, a padding byte that is never read, an operand byte, or
an operand word (low byte first, R139); and the instruction it makes. -/
inductive Form where
  | implied (i : Instr)
  | padded (i : Instr)
  | byte (f : Byte → Instr)
  | word (f : Word → Instr)

/-- One of the 256 entries of the opcode table: the form of the instruction and its base cycle count (R146). -/
structure OpcodeRow where
  form : Form
  cycles : Nat

/-- An entry with mode IMP. -/
def rowImplied (i : Instr) (n : Nat) : OpcodeRow := ⟨.implied i, n⟩
/-- BRK's entry: two bytes, the second skipped and never read (R131). -/
def rowPadded (i : Instr) (n : Nat) : OpcodeRow := ⟨.padded i, n⟩
/-- An entry with one operand byte. -/
def rowByte (f : Byte → Instr) (n : Nat) : OpcodeRow := ⟨.byte f, n⟩
/-- An entry with two operand bytes. -/
def rowWord (f : Word → Instr) (n : Nat) : OpcodeRow := ⟨.word f, n⟩
/-- An undefined opcode, mode IMP, with its default UNDEF_CYCLES (R151, R152). -/
def rowUndef (op : Byte) (n : Nat) : OpcodeRow := ⟨.implied (.undef op), n⟩

/-- Row 0x of R147. -/
def opcodeRow0 : List OpcodeRow :=
  [ rowPadded .brk 7,
    rowByte (fun b => .ora (.izx b)) 6,
    rowUndef 0x02 2,
    rowUndef 0x03 8,
    rowUndef 0x04 3,
    rowByte (fun b => .ora (.zp0 b)) 3,
    rowByte (fun b => .asl (.mem (.zp0 b))) 5,
    rowUndef 0x07 5,
    rowImplied .php 3,
    rowByte (fun b => .ora (.imm b)) 2,
    rowImplied (.asl .acc) 2,
    rowUndef 0x0B 2,
    rowUndef 0x0C 4,
    rowWord (fun w => .ora (.abs w)) 4,
    rowWord (fun w => .asl (.mem (.abs w))) 6,
    rowUndef 0x0F 6 ]

/-- Row 1x of R147. -/
def opcodeRow1 : List OpcodeRow :=
  [ rowByte .bpl 2,
    rowByte (fun b => .ora (.izy b)) 5,
    rowUndef 0x12 2,
    rowUndef 0x13 8,
    rowUndef 0x14 4,
    rowByte (fun b => .ora (.zpx b)) 4,
    rowByte (fun b => .asl (.mem (.zpx b))) 6,
    rowUndef 0x17 6,
    rowImplied .clc 2,
    rowWord (fun w => .ora (.aby w)) 4,
    rowUndef 0x1A 2,
    rowUndef 0x1B 7,
    rowUndef 0x1C 4,
    rowWord (fun w => .ora (.abx w)) 4,
    rowWord (fun w => .asl (.mem (.abx w))) 7,
    rowUndef 0x1F 7 ]

/-- Row 2x of R147. -/
def opcodeRow2 : List OpcodeRow :=
  [ rowWord .jsr 6,
    rowByte (fun b => .and (.izx b)) 6,
    rowUndef 0x22 2,
    rowUndef 0x23 8,
    rowByte (fun b => .bit (.zp0 b)) 3,
    rowByte (fun b => .and (.zp0 b)) 3,
    rowByte (fun b => .rol (.mem (.zp0 b))) 5,
    rowUndef 0x27 5,
    rowImplied .plp 4,
    rowByte (fun b => .and (.imm b)) 2,
    rowImplied (.rol .acc) 2,
    rowUndef 0x2B 2,
    rowWord (fun w => .bit (.abs w)) 4,
    rowWord (fun w => .and (.abs w)) 4,
    rowWord (fun w => .rol (.mem (.abs w))) 6,
    rowUndef 0x2F 6 ]

/-- Row 3x of R147. -/
def opcodeRow3 : List OpcodeRow :=
  [ rowByte .bmi 2,
    rowByte (fun b => .and (.izy b)) 5,
    rowUndef 0x32 2,
    rowUndef 0x33 8,
    rowUndef 0x34 4,
    rowByte (fun b => .and (.zpx b)) 4,
    rowByte (fun b => .rol (.mem (.zpx b))) 6,
    rowUndef 0x37 6,
    rowImplied .sec 2,
    rowWord (fun w => .and (.aby w)) 4,
    rowUndef 0x3A 2,
    rowUndef 0x3B 7,
    rowUndef 0x3C 4,
    rowWord (fun w => .and (.abx w)) 4,
    rowWord (fun w => .rol (.mem (.abx w))) 7,
    rowUndef 0x3F 7 ]

/-- Row 4x of R147. -/
def opcodeRow4 : List OpcodeRow :=
  [ rowImplied .rti 6,
    rowByte (fun b => .eor (.izx b)) 6,
    rowUndef 0x42 2,
    rowUndef 0x43 8,
    rowUndef 0x44 3,
    rowByte (fun b => .eor (.zp0 b)) 3,
    rowByte (fun b => .lsr (.mem (.zp0 b))) 5,
    rowUndef 0x47 5,
    rowImplied .pha 3,
    rowByte (fun b => .eor (.imm b)) 2,
    rowImplied (.lsr .acc) 2,
    rowUndef 0x4B 2,
    rowWord (fun w => .jmp (.abs w)) 3,
    rowWord (fun w => .eor (.abs w)) 4,
    rowWord (fun w => .lsr (.mem (.abs w))) 6,
    rowUndef 0x4F 6 ]

/-- Row 5x of R147. -/
def opcodeRow5 : List OpcodeRow :=
  [ rowByte .bvc 2,
    rowByte (fun b => .eor (.izy b)) 5,
    rowUndef 0x52 2,
    rowUndef 0x53 8,
    rowUndef 0x54 4,
    rowByte (fun b => .eor (.zpx b)) 4,
    rowByte (fun b => .lsr (.mem (.zpx b))) 6,
    rowUndef 0x57 6,
    rowImplied .cli 2,
    rowWord (fun w => .eor (.aby w)) 4,
    rowUndef 0x5A 2,
    rowUndef 0x5B 7,
    rowUndef 0x5C 4,
    rowWord (fun w => .eor (.abx w)) 4,
    rowWord (fun w => .lsr (.mem (.abx w))) 7,
    rowUndef 0x5F 7 ]

/-- Row 6x of R147. -/
def opcodeRow6 : List OpcodeRow :=
  [ rowImplied .rts 6,
    rowByte (fun b => .adc (.izx b)) 6,
    rowUndef 0x62 2,
    rowUndef 0x63 8,
    rowUndef 0x64 3,
    rowByte (fun b => .adc (.zp0 b)) 3,
    rowByte (fun b => .ror (.mem (.zp0 b))) 5,
    rowUndef 0x67 5,
    rowImplied .pla 4,
    rowByte (fun b => .adc (.imm b)) 2,
    rowImplied (.ror .acc) 2,
    rowUndef 0x6B 2,
    rowWord (fun w => .jmp (.ind w)) 5,
    rowWord (fun w => .adc (.abs w)) 4,
    rowWord (fun w => .ror (.mem (.abs w))) 6,
    rowUndef 0x6F 6 ]

/-- Row 7x of R147. -/
def opcodeRow7 : List OpcodeRow :=
  [ rowByte .bvs 2,
    rowByte (fun b => .adc (.izy b)) 5,
    rowUndef 0x72 2,
    rowUndef 0x73 8,
    rowUndef 0x74 4,
    rowByte (fun b => .adc (.zpx b)) 4,
    rowByte (fun b => .ror (.mem (.zpx b))) 6,
    rowUndef 0x77 6,
    rowImplied .sei 2,
    rowWord (fun w => .adc (.aby w)) 4,
    rowUndef 0x7A 2,
    rowUndef 0x7B 7,
    rowUndef 0x7C 4,
    rowWord (fun w => .adc (.abx w)) 4,
    rowWord (fun w => .ror (.mem (.abx w))) 7,
    rowUndef 0x7F 7 ]

/-- Row 8x of R147. -/
def opcodeRow8 : List OpcodeRow :=
  [ rowUndef 0x80 2,
    rowByte (fun b => .sta (.izx b)) 6,
    rowUndef 0x82 2,
    rowUndef 0x83 6,
    rowByte (fun b => .sty (.zp0 b)) 3,
    rowByte (fun b => .sta (.zp0 b)) 3,
    rowByte (fun b => .stx (.zp0 b)) 3,
    rowUndef 0x87 3,
    rowImplied .dey 2,
    rowUndef 0x89 2,
    rowImplied .txa 2,
    rowUndef 0x8B 2,
    rowWord (fun w => .sty (.abs w)) 4,
    rowWord (fun w => .sta (.abs w)) 4,
    rowWord (fun w => .stx (.abs w)) 4,
    rowUndef 0x8F 4 ]

/-- Row 9x of R147. -/
def opcodeRow9 : List OpcodeRow :=
  [ rowByte .bcc 2,
    rowByte (fun b => .sta (.izy b)) 6,
    rowUndef 0x92 2,
    rowUndef 0x93 6,
    rowByte (fun b => .sty (.zpx b)) 4,
    rowByte (fun b => .sta (.zpx b)) 4,
    rowByte (fun b => .stx (.zpy b)) 4,
    rowUndef 0x97 4,
    rowImplied .tya 2,
    rowWord (fun w => .sta (.aby w)) 5,
    rowImplied .txs 2,
    rowUndef 0x9B 5,
    rowUndef 0x9C 5,
    rowWord (fun w => .sta (.abx w)) 5,
    rowUndef 0x9E 5,
    rowUndef 0x9F 5 ]

/-- Row Ax of R147. -/
def opcodeRowA : List OpcodeRow :=
  [ rowByte (fun b => .ldy (.imm b)) 2,
    rowByte (fun b => .lda (.izx b)) 6,
    rowByte (fun b => .ldx (.imm b)) 2,
    rowUndef 0xA3 6,
    rowByte (fun b => .ldy (.zp0 b)) 3,
    rowByte (fun b => .lda (.zp0 b)) 3,
    rowByte (fun b => .ldx (.zp0 b)) 3,
    rowUndef 0xA7 3,
    rowImplied .tay 2,
    rowByte (fun b => .lda (.imm b)) 2,
    rowImplied .tax 2,
    rowUndef 0xAB 2,
    rowWord (fun w => .ldy (.abs w)) 4,
    rowWord (fun w => .lda (.abs w)) 4,
    rowWord (fun w => .ldx (.abs w)) 4,
    rowUndef 0xAF 4 ]

/-- Row Bx of R147. -/
def opcodeRowB : List OpcodeRow :=
  [ rowByte .bcs 2,
    rowByte (fun b => .lda (.izy b)) 5,
    rowUndef 0xB2 2,
    rowUndef 0xB3 5,
    rowByte (fun b => .ldy (.zpx b)) 4,
    rowByte (fun b => .lda (.zpx b)) 4,
    rowByte (fun b => .ldx (.zpy b)) 4,
    rowUndef 0xB7 4,
    rowImplied .clv 2,
    rowWord (fun w => .lda (.aby w)) 4,
    rowImplied .tsx 2,
    rowUndef 0xBB 4,
    rowWord (fun w => .ldy (.abx w)) 4,
    rowWord (fun w => .lda (.abx w)) 4,
    rowWord (fun w => .ldx (.aby w)) 4,
    rowUndef 0xBF 4 ]

/-- Row Cx of R147. -/
def opcodeRowC : List OpcodeRow :=
  [ rowByte (fun b => .cpy (.imm b)) 2,
    rowByte (fun b => .cmp (.izx b)) 6,
    rowUndef 0xC2 2,
    rowUndef 0xC3 8,
    rowByte (fun b => .cpy (.zp0 b)) 3,
    rowByte (fun b => .cmp (.zp0 b)) 3,
    rowByte (fun b => .dec (.zp0 b)) 5,
    rowUndef 0xC7 5,
    rowImplied .iny 2,
    rowByte (fun b => .cmp (.imm b)) 2,
    rowImplied .dex 2,
    rowUndef 0xCB 2,
    rowWord (fun w => .cpy (.abs w)) 4,
    rowWord (fun w => .cmp (.abs w)) 4,
    rowWord (fun w => .dec (.abs w)) 6,
    rowUndef 0xCF 6 ]

/-- Row Dx of R147. -/
def opcodeRowD : List OpcodeRow :=
  [ rowByte .bne 2,
    rowByte (fun b => .cmp (.izy b)) 5,
    rowUndef 0xD2 2,
    rowUndef 0xD3 8,
    rowUndef 0xD4 4,
    rowByte (fun b => .cmp (.zpx b)) 4,
    rowByte (fun b => .dec (.zpx b)) 6,
    rowUndef 0xD7 6,
    rowImplied .cld 2,
    rowWord (fun w => .cmp (.aby w)) 4,
    rowUndef 0xDA 2,
    rowUndef 0xDB 7,
    rowUndef 0xDC 4,
    rowWord (fun w => .cmp (.abx w)) 4,
    rowWord (fun w => .dec (.abx w)) 7,
    rowUndef 0xDF 7 ]

/-- Row Ex of R147. -/
def opcodeRowE : List OpcodeRow :=
  [ rowByte (fun b => .cpx (.imm b)) 2,
    rowByte (fun b => .sbc (.izx b)) 6,
    rowUndef 0xE2 2,
    rowUndef 0xE3 8,
    rowByte (fun b => .cpx (.zp0 b)) 3,
    rowByte (fun b => .sbc (.zp0 b)) 3,
    rowByte (fun b => .inc (.zp0 b)) 5,
    rowUndef 0xE7 5,
    rowImplied .inx 2,
    rowByte (fun b => .sbc (.imm b)) 2,
    rowImplied .nop 2,
    rowUndef 0xEB 2,
    rowWord (fun w => .cpx (.abs w)) 4,
    rowWord (fun w => .sbc (.abs w)) 4,
    rowWord (fun w => .inc (.abs w)) 6,
    rowUndef 0xEF 6 ]

/-- Row Fx of R147. -/
def opcodeRowF : List OpcodeRow :=
  [ rowByte .beq 2,
    rowByte (fun b => .sbc (.izy b)) 5,
    rowUndef 0xF2 2,
    rowUndef 0xF3 8,
    rowUndef 0xF4 4,
    rowByte (fun b => .sbc (.zpx b)) 4,
    rowByte (fun b => .inc (.zpx b)) 6,
    rowUndef 0xF7 6,
    rowImplied .sed 2,
    rowWord (fun w => .sbc (.aby w)) 4,
    rowUndef 0xFA 2,
    rowUndef 0xFB 7,
    rowUndef 0xFC 4,
    rowWord (fun w => .sbc (.abx w)) 4,
    rowWord (fun w => .inc (.abx w)) 7,
    rowUndef 0xFF 7 ]

/-- The opcode table of R147, by the high nibble of the opcode. -/
def opcodeTable : List (List OpcodeRow) :=
  [opcodeRow0, opcodeRow1, opcodeRow2, opcodeRow3, opcodeRow4, opcodeRow5, opcodeRow6, opcodeRow7,
   opcodeRow8, opcodeRow9, opcodeRowA, opcodeRowB, opcodeRowC, opcodeRowD, opcodeRowE, opcodeRowF]

/-- The entry the opcode byte selects: row by the high nibble, column by the low nibble (R146, R147). Every byte selects one. -/
def opcodeRow (op : Byte) : OpcodeRow :=
  (opcodeTable.getD (op.toNat / 16) []).getD (op.toNat % 16) (rowUndef op 2)

/-- The base cycle count of an opcode (R147; for an undefined opcode the default of R152). -/
def baseCycles (op : Byte) : Nat :=
  (opcodeRow op).cycles

/-- The 16-bit value of two bytes, little-endian (20_memory.md R70). -/
def wordOf (lo hi : Byte) : Word := hi ++ lo

/-- Bits 7..0 of a word. -/
def lowByte (w : Word) : Byte := w.extractLsb' 0 8
/-- Bits 15..8 of a word. -/
def highByte (w : Word) : Byte := w.extractLsb' 8 8

/-- How many bytes an instruction of this form has (R131). -/
def Form.length : Form → Nat
  | .implied _ => 1
  | .padded _ => 2
  | .byte _ => 2
  | .word _ => 3

/-- Why bytes are no instruction: there is no opcode byte, or the opcode's operand bytes are missing. Every opcode byte itself
is an instruction's (R146). -/
inductive DecodeError where
  | noOpcode
  | missingOperand (op : Byte)
deriving DecidableEq, Repr

/-- The instruction and the bytes left over, once the opcode `op` has selected `form`. -/
def decodeOperand (op : Byte) (form : Form) (rest : List Byte) : Except DecodeError (Instr × List Byte) :=
  match form, rest with
  | .implied i, rest => .ok (i, rest)
  | .padded i, _ :: rest => .ok (i, rest)
  | .byte f, b :: rest => .ok (f b, rest)
  | .word f, lo :: hi :: rest => .ok (f (wordOf lo hi), rest)
  | _, _ => .error (.missingOperand op)

/-- The decoder: the instruction at the head of a list of bytes, and the bytes after it (R130, R146). -/
def decode : List Byte → Except DecodeError (Instr × List Byte)
  | [] => .error .noOpcode
  | op :: rest => decodeOperand op (opcodeRow op).form rest

/-! ### The encoder, from the mnemonic table of R148 -/

/-- The opcode of a form, of the opcodes R148 gives a mnemonic of this group by mode. -/
def Src8.pick (immOp zp0Op zpxOp absOp abxOp abyOp izxOp izyOp : Byte) : Src8 → Byte
  | .imm _ => immOp
  | .zp0 _ => zp0Op
  | .zpx _ => zpxOp
  | .abs _ => absOp
  | .abx _ => abxOp
  | .aby _ => abyOp
  | .izx _ => izxOp
  | .izy _ => izyOp

/-- The operand bytes of a form, low byte first. -/
def Src8.bytes : Src8 → List Byte
  | .imm x => [x]
  | .zp0 x => [x]
  | .zpx x => [x]
  | .abs x => [lowByte x, highByte x]
  | .abx x => [lowByte x, highByte x]
  | .aby x => [lowByte x, highByte x]
  | .izx x => [x]
  | .izy x => [x]

/-- The opcode of a form, of the opcodes R148 gives a mnemonic of this group by mode. -/
def LdxSrc.pick (immOp zp0Op zpyOp absOp abyOp : Byte) : LdxSrc → Byte
  | .imm _ => immOp
  | .zp0 _ => zp0Op
  | .zpy _ => zpyOp
  | .abs _ => absOp
  | .aby _ => abyOp

/-- The operand bytes of a form, low byte first. -/
def LdxSrc.bytes : LdxSrc → List Byte
  | .imm x => [x]
  | .zp0 x => [x]
  | .zpy x => [x]
  | .abs x => [lowByte x, highByte x]
  | .aby x => [lowByte x, highByte x]

/-- The opcode of a form, of the opcodes R148 gives a mnemonic of this group by mode. -/
def LdySrc.pick (immOp zp0Op zpxOp absOp abxOp : Byte) : LdySrc → Byte
  | .imm _ => immOp
  | .zp0 _ => zp0Op
  | .zpx _ => zpxOp
  | .abs _ => absOp
  | .abx _ => abxOp

/-- The operand bytes of a form, low byte first. -/
def LdySrc.bytes : LdySrc → List Byte
  | .imm x => [x]
  | .zp0 x => [x]
  | .zpx x => [x]
  | .abs x => [lowByte x, highByte x]
  | .abx x => [lowByte x, highByte x]

/-- The opcode of a form, of the opcodes R148 gives a mnemonic of this group by mode. -/
def CpSrc.pick (immOp zp0Op absOp : Byte) : CpSrc → Byte
  | .imm _ => immOp
  | .zp0 _ => zp0Op
  | .abs _ => absOp

/-- The operand bytes of a form, low byte first. -/
def CpSrc.bytes : CpSrc → List Byte
  | .imm x => [x]
  | .zp0 x => [x]
  | .abs x => [lowByte x, highByte x]

/-- The opcode of a form, of the opcodes R148 gives a mnemonic of this group by mode. -/
def BitSrc.pick (zp0Op absOp : Byte) : BitSrc → Byte
  | .zp0 _ => zp0Op
  | .abs _ => absOp

/-- The operand bytes of a form, low byte first. -/
def BitSrc.bytes : BitSrc → List Byte
  | .zp0 x => [x]
  | .abs x => [lowByte x, highByte x]

/-- The opcode of a form, of the opcodes R148 gives a mnemonic of this group by mode. -/
def StaDst.pick (zp0Op zpxOp absOp abxOp abyOp izxOp izyOp : Byte) : StaDst → Byte
  | .zp0 _ => zp0Op
  | .zpx _ => zpxOp
  | .abs _ => absOp
  | .abx _ => abxOp
  | .aby _ => abyOp
  | .izx _ => izxOp
  | .izy _ => izyOp

/-- The operand bytes of a form, low byte first. -/
def StaDst.bytes : StaDst → List Byte
  | .zp0 x => [x]
  | .zpx x => [x]
  | .abs x => [lowByte x, highByte x]
  | .abx x => [lowByte x, highByte x]
  | .aby x => [lowByte x, highByte x]
  | .izx x => [x]
  | .izy x => [x]

/-- The opcode of a form, of the opcodes R148 gives a mnemonic of this group by mode. -/
def StxDst.pick (zp0Op zpyOp absOp : Byte) : StxDst → Byte
  | .zp0 _ => zp0Op
  | .zpy _ => zpyOp
  | .abs _ => absOp

/-- The operand bytes of a form, low byte first. -/
def StxDst.bytes : StxDst → List Byte
  | .zp0 x => [x]
  | .zpy x => [x]
  | .abs x => [lowByte x, highByte x]

/-- The opcode of a form, of the opcodes R148 gives a mnemonic of this group by mode. -/
def StyDst.pick (zp0Op zpxOp absOp : Byte) : StyDst → Byte
  | .zp0 _ => zp0Op
  | .zpx _ => zpxOp
  | .abs _ => absOp

/-- The operand bytes of a form, low byte first. -/
def StyDst.bytes : StyDst → List Byte
  | .zp0 x => [x]
  | .zpx x => [x]
  | .abs x => [lowByte x, highByte x]

/-- The opcode of a form, of the opcodes R148 gives a mnemonic of this group by mode. -/
def RmwDst.pick (zp0Op zpxOp absOp abxOp : Byte) : RmwDst → Byte
  | .zp0 _ => zp0Op
  | .zpx _ => zpxOp
  | .abs _ => absOp
  | .abx _ => abxOp

/-- The operand bytes of a form, low byte first. -/
def RmwDst.bytes : RmwDst → List Byte
  | .zp0 x => [x]
  | .zpx x => [x]
  | .abs x => [lowByte x, highByte x]
  | .abx x => [lowByte x, highByte x]

/-- The opcode of a form, of the opcodes R148 gives a mnemonic of this group by mode. -/
def JmpTarget.pick (absOp indOp : Byte) : JmpTarget → Byte
  | .abs _ => absOp
  | .ind _ => indOp

/-- The operand bytes of a form, low byte first. -/
def JmpTarget.bytes : JmpTarget → List Byte
  | .abs x => [lowByte x, highByte x]
  | .ind x => [lowByte x, highByte x]

/-- The opcode of a shift's form: mode IMP for the accumulator. -/
def ShiftDst.pick (accOp zp0Op zpxOp absOp abxOp : Byte) : ShiftDst → Byte
  | .acc => accOp
  | .mem m => m.pick zp0Op zpxOp absOp abxOp

/-- The operand bytes of a shift's form. -/
def ShiftDst.bytes : ShiftDst → List Byte
  | .acc => []
  | .mem m => m.bytes

/-- The opcode byte of an instruction (R148; an undefined opcode is its own value). -/
def opcodeOf : Instr → Byte
  | .lda m => m.pick 0xA9 0xA5 0xB5 0xAD 0xBD 0xB9 0xA1 0xB1
  | .ldx m => m.pick 0xA2 0xA6 0xB6 0xAE 0xBE
  | .ldy m => m.pick 0xA0 0xA4 0xB4 0xAC 0xBC
  | .sta m => m.pick 0x85 0x95 0x8D 0x9D 0x99 0x81 0x91
  | .stx m => m.pick 0x86 0x96 0x8E
  | .sty m => m.pick 0x84 0x94 0x8C
  | .tax => 0xAA
  | .tay => 0xA8
  | .txa => 0x8A
  | .tya => 0x98
  | .tsx => 0xBA
  | .txs => 0x9A
  | .pha => 0x48
  | .php => 0x08
  | .pla => 0x68
  | .plp => 0x28
  | .adc m => m.pick 0x69 0x65 0x75 0x6D 0x7D 0x79 0x61 0x71
  | .sbc m => m.pick 0xE9 0xE5 0xF5 0xED 0xFD 0xF9 0xE1 0xF1
  | .and m => m.pick 0x29 0x25 0x35 0x2D 0x3D 0x39 0x21 0x31
  | .ora m => m.pick 0x09 0x05 0x15 0x0D 0x1D 0x19 0x01 0x11
  | .eor m => m.pick 0x49 0x45 0x55 0x4D 0x5D 0x59 0x41 0x51
  | .bit m => m.pick 0x24 0x2C
  | .cmp m => m.pick 0xC9 0xC5 0xD5 0xCD 0xDD 0xD9 0xC1 0xD1
  | .cpx m => m.pick 0xE0 0xE4 0xEC
  | .cpy m => m.pick 0xC0 0xC4 0xCC
  | .inc m => m.pick 0xE6 0xF6 0xEE 0xFE
  | .inx => 0xE8
  | .iny => 0xC8
  | .dec m => m.pick 0xC6 0xD6 0xCE 0xDE
  | .dex => 0xCA
  | .dey => 0x88
  | .asl m => m.pick 0x0A 0x06 0x16 0x0E 0x1E
  | .lsr m => m.pick 0x4A 0x46 0x56 0x4E 0x5E
  | .rol m => m.pick 0x2A 0x26 0x36 0x2E 0x3E
  | .ror m => m.pick 0x6A 0x66 0x76 0x6E 0x7E
  | .jmp m => m.pick 0x4C 0x6C
  | .jsr _ => 0x20
  | .rts => 0x60
  | .bcc _ => 0x90
  | .bcs _ => 0xB0
  | .beq _ => 0xF0
  | .bmi _ => 0x30
  | .bne _ => 0xD0
  | .bpl _ => 0x10
  | .bvc _ => 0x50
  | .bvs _ => 0x70
  | .clc => 0x18
  | .cld => 0xD8
  | .cli => 0x58
  | .clv => 0xB8
  | .sec => 0x38
  | .sed => 0xF8
  | .sei => 0x78
  | .nop => 0xEA
  | .brk => 0x00
  | .rti => 0x40
  | .undef op => op

/-- The bytes after the opcode. BRK's padding byte is written as 0x00 (any value decodes to BRK; log 12). -/
def operandBytes : Instr → List Byte
  | .lda m => m.bytes
  | .ldx m => m.bytes
  | .ldy m => m.bytes
  | .sta m => m.bytes
  | .stx m => m.bytes
  | .sty m => m.bytes
  | .tax => []
  | .tay => []
  | .txa => []
  | .tya => []
  | .tsx => []
  | .txs => []
  | .pha => []
  | .php => []
  | .pla => []
  | .plp => []
  | .adc m => m.bytes
  | .sbc m => m.bytes
  | .and m => m.bytes
  | .ora m => m.bytes
  | .eor m => m.bytes
  | .bit m => m.bytes
  | .cmp m => m.bytes
  | .cpx m => m.bytes
  | .cpy m => m.bytes
  | .inc m => m.bytes
  | .inx => []
  | .iny => []
  | .dec m => m.bytes
  | .dex => []
  | .dey => []
  | .asl m => m.bytes
  | .lsr m => m.bytes
  | .rol m => m.bytes
  | .ror m => m.bytes
  | .jmp m => m.bytes
  | .jsr w => [lowByte w, highByte w]
  | .rts => []
  | .bcc d => [d]
  | .bcs d => [d]
  | .beq d => [d]
  | .bmi d => [d]
  | .bne d => [d]
  | .bpl d => [d]
  | .bvc d => [d]
  | .bvs d => [d]
  | .clc => []
  | .cld => []
  | .cli => []
  | .clv => []
  | .sec => []
  | .sed => []
  | .sei => []
  | .nop => []
  | .brk => [0x00]
  | .rti => []
  | .undef _ => []

/-- The encoder: the bytes of an instruction (R130, R148). -/
def encode (i : Instr) : List Byte :=
  opcodeOf i :: operandBytes i

/-- How many bytes an instruction has, by the mode its opcode selects (R131). -/
def Instr.length (i : Instr) : Nat :=
  (opcodeRow (opcodeOf i)).form.length

/-! ### The host's reading of a table word -/

/-- The first three bytes of a number that holds an instruction's bytes, the first byte in bits 7..0 and every bit at or above
`nbits` taken as 0. -/
def tableBytes (nbits w : Nat) : List Byte :=
  let v := w % 2 ^ nbits
  [BitVec.ofNat 8 v, BitVec.ofNat 8 (v / 256), BitVec.ofNat 8 (v / 65536)]

/-- The instruction the decoder reads from an instruction whose bits are `w`, numbered as spec/opcode_table.json numbers them. -/
def decodeTableWord (nbits w : Nat) : Option Instr :=
  match decode (tableBytes nbits w) with
  | .ok (i, _) => some i
  | .error _ => none

end Sys2Proof
end

