-- ==== Sys2Proof/Config.lean ====
section
/-! DEFINITION. What the spec leaves free for every run: values the host or the environment supplies, with no body, so that
nothing can be proved of a particular value (00_scope.md R10). The parameters a program can be run under (UNDEF_CYCLES,
DMA_READ_PARITY, IRQ_EVENTS, the cartridge, the power-on memories) are plain data in State instead. -/

namespace Sys2Proof

/-- PAD(i, t): the 8-bit button snapshot of controller `i` (0 or 1) that the host supplies when a CPU write latches it (20_memory.md
R85, 60_exceptions.md R440). The host's time `t` is the number of the system reset that began the run of M, with M, so no two
master steps have the same. DESIGN CHOICE, safe: a free value, see log 3. -/
opaque Config.pad : Fin 2 → Nat → Nat → Byte

/-- REF_PALETTE together with the lost colour lookup: the display colour of a 6-bit colour index under the three emphasis bits
PPUMASK[7:5] (60_exceptions.md R403, 92_eei_decisions.md D25). No step reads it. DESIGN CHOICE, safe: see log 11. -/
opaque Config.refPalette : BitVec 6 → BitVec 3 → Nat

/-- The pattern row of a selected sprite whose distance `d` from the scanline is one for which the 8x8 formula of
60_exceptions.md R392 gives no natural number (d below 0, or above 7 with vertical flip). DESIGN CHOICE, safe: see log 8. -/
opaque Config.freeSpriteRow : Int → Word

end Sys2Proof
end

