-- ==== Sys2Proof/Machine/State.lean ====
section
/-! DEFINITION. The machine's state as plain data, its reset value, the reasons a step can stop, and the state's own updates
(10_state.md R20 to R43). -/

namespace Sys2Proof.Machine

/-- A memory: the bytes that differ from the background 0x00, as (offset, byte) pairs with offsets strictly rising (`Memory.wf`).
Every RAM and ROM of the machine is one: RAM, NT, PT, PAL, OAM, PRG, CHR (R28, R39, R41). -/
abbrev Memory := List Host.Cell

/-- The OAM DMA state (R29). -/
structure Dma where
  page : Byte
  offset : Byte
  data : Byte
  align : Bool
  active : Bool
deriving DecidableEq, Repr

/-- One sprite slot: the record `spr_line[i]` and its pattern shifters `spr_pat_lo[i]`, `spr_pat_hi[i]` (R37). -/
structure SpriteSlot where
  y : Byte
  id : Byte
  attr : Byte
  x : Byte
  patLo : Byte
  patHi : Byte
deriving DecidableEq, Repr

/-- An empty slot: every byte of the record 0xFF, both shifters 0 (R37, R390). -/
def SpriteSlot.empty : SpriteSlot :=
  { y := 0xFF, id := 0xFF, attr := 0xFF, x := 0xFF, patLo := 0, patHi := 0 }

/-- One `set_pixel` call, before the colour lookup: the coordinates, the 6-bit colour index and the emphasis bits PPUMASK[7:5]
(60_exceptions.md R403). -/
structure Pixel where
  x : Int
  y : Int
  colourIndex : BitVec 6
  emphasis : BitVec 3
deriving DecidableEq, Repr

/-- The display colour of a pixel (R403): a free value of the index and the emphasis bits (log 11). -/
def Pixel.colour (p : Pixel) : Nat := Config.refPalette p.colourIndex p.emphasis

/-- The PPU: registers (R30 to R35), background pipeline (R36), sprite pipeline (R37), timing (R38), video memory (R39), and the
last `set_pixel` call, an output to the host (R403, log 9). -/
structure Ppu where
  ctrl : Byte
  mask : Byte
  status : Byte
  oamAddr : Byte
  v : BitVec 15
  t : BitVec 15
  fineX : BitVec 3
  w : Bool
  dataBuffer : Byte
  bgPatLo : BitVec 16
  bgPatHi : BitVec 16
  bgAttLo : BitVec 16
  bgAttHi : BitVec 16
  ntId : Byte
  ntAttr : Byte
  ntLsb : Byte
  ntMsb : Byte
  spr : List SpriteSlot
  sprCount : Fin 9
  spr0Possible : Bool
  spr0Rendering : Bool
  scanline : Int
  cycle : Nat
  oddFrame : Bool
  frameComplete : Bool
  nmiReq : Bool
  nt0 : Memory
  nt1 : Memory
  pt0 : Memory
  pt1 : Memory
  pal : Memory
  oam : Memory
  pixel : Option Pixel
deriving DecidableEq, Repr

/-- Nametable mirroring, fixed at load (R41, 20_memory.md R107). -/
inductive Mirroring where
  | horizontal
  | vertical
deriving DecidableEq, Repr

/-- The mapper instance: NROM has no register, CNROM has the 2-bit `chr_bank` (R41). -/
inductive Mapper where
  | nrom
  | cnrom (chrBank : BitVec 2)
deriving DecidableEq, Repr

/-- The cartridge (R41, 00_scope.md R10, R16). -/
structure Cart where
  prg : Memory
  prgBanks : Nat
  chr : Memory
  chrBanks : Nat
  mirroring : Mirroring
  mapper : Mapper
deriving DecidableEq, Repr

/-- The parameters fixed for a run that are not the cartridge (00_scope.md R10): UNDEF_CYCLES, as the opcodes whose count is not
the default of R152 with `count - 1` in 0..7 (log 6), and DMA_READ_PARITY, true for odd (log 7). -/
structure Params where
  undefCycles : List (Byte × Fin 8)
  dmaReadOdd : Bool
deriving DecidableEq, Repr

/-- A run-time stop. -/
inductive Fault where
  /-- Raised by a cartridge access whose translated offset is at or beyond the length of PRG or CHR (20_memory.md R116), from a CPU
  access, a DMA read or the renderer. The spec names this fault and gives the state no meaning, so stopping there is safe. -/
  | cartOffsetOutOfRange
deriving DecidableEq, Repr

/-- Why there is no meaning. -/
inductive Refusal where
  /-- Raised by an arm of `exec` for an instruction that has no meaning yet; no arm does. Safe. -/
  | notModelled (mnemonic : String)
  /-- Raised by `launch` for parameters that 93_implementation_defined.md (rows 3, 4) says are refused before the first step: no
  program bank, CHR bytes with no character bank declared, or memory contents outside the memory's length. No step raises it. Safe. -/
  | badLaunch
deriving DecidableEq, Repr

/-- Everything the core holds, with the CPU registers and the Bus state under the spec's own names, and the host's IRQ schedule
IRQ_EVENTS (60_exceptions.md R441). One field is the model's own: `resets`, how many times the host has called `Bus.reset()` so far,
which only the free value PAD reads (log 3). -/
structure State where
  a : Byte
  x : Byte
  y : Byte
  sp : Byte
  pc : Word
  p : Byte
  opcode : Byte
  addrAbs : Word
  addrRel : Word
  fetched : Byte
  cycles : Nat
  clockCount : Nat
  ram : Memory
  padSr0 : Byte
  padSr1 : Byte
  master : Nat
  dma : Dma
  ppu : Ppu
  cart : Cart
  params : Params
  irqEvents : List Nat
  resets : Nat
deriving DecidableEq, Repr

/-! ### Updates, one per field a rule writes -/

/-- `A <- v`. -/
def State.setA (s : State) (v : Byte) : State := { s with a := v }
/-- `X <- v`. -/
def State.setX (s : State) (v : Byte) : State := { s with x := v }
/-- `Y <- v`. -/
def State.setY (s : State) (v : Byte) : State := { s with y := v }
/-- `SP <- v`. -/
def State.setSp (s : State) (v : Byte) : State := { s with sp := v }
/-- `PC <- v`. -/
def State.setPc (s : State) (v : Word) : State := { s with pc := v }
/-- `P <- v`. -/
def State.setP (s : State) (v : Byte) : State := { s with p := v }
/-- `opcode <- v`. -/
def State.setOpcode (s : State) (v : Byte) : State := { s with opcode := v }
/-- `addr_abs <- v`. -/
def State.setAddrAbs (s : State) (v : Word) : State := { s with addrAbs := v }
/-- `addr_rel <- v`. -/
def State.setAddrRel (s : State) (v : Word) : State := { s with addrRel := v }
/-- `fetched <- v`. -/
def State.setFetched (s : State) (v : Byte) : State := { s with fetched := v }
/-- `cycles <- n`. -/
def State.setCycles (s : State) (n : Nat) : State := { s with cycles := n }
/-- `clock_count <- n`. -/
def State.setClockCount (s : State) (n : Nat) : State := { s with clockCount := n }
/-- `RAM <- m`. -/
def State.setRam (s : State) (m : Memory) : State := { s with ram := m }
/-- `pad_sr[0] <- v`. -/
def State.setPadSr0 (s : State) (v : Byte) : State := { s with padSr0 := v }
/-- `pad_sr[1] <- v`. -/
def State.setPadSr1 (s : State) (v : Byte) : State := { s with padSr1 := v }
/-- `M <- n`. -/
def State.setMaster (s : State) (n : Nat) : State := { s with master := n }
/-- One more system reset counted (log 3). -/
def State.setResets (s : State) (n : Nat) : State := { s with resets := n }
/-- The DMA state replaced. -/
def State.setDma (s : State) (d : Dma) : State := { s with dma := d }
/-- The PPU replaced. -/
def State.setPpu (s : State) (q : Ppu) : State := { s with ppu := q }
/-- The cartridge replaced. -/
def State.setCart (s : State) (c : Cart) : State := { s with cart := c }

/-! ### Reset values -/

/-- The DMA state after reset (70_reset_and_hazards.md R450). -/
def Dma.reset : Dma :=
  { page := 0, offset := 0, data := 0, align := false, active := false }

/-- The PPU after reset, with memories that list nothing (R452, R43; the memories' contents: log 2). -/
def Ppu.reset : Ppu :=
  { ctrl := 0, mask := 0, status := 0, oamAddr := 0, v := 0, t := 0, fineX := 0, w := false, dataBuffer := 0
    bgPatLo := 0, bgPatHi := 0, bgAttLo := 0, bgAttHi := 0, ntId := 0, ntAttr := 0, ntLsb := 0, ntMsb := 0
    spr := List.replicate 8 SpriteSlot.empty, sprCount := 0, spr0Possible := false, spr0Rendering := false
    scanline := 0, cycle := 0, oddFrame := false, frameComplete := false, nmiReq := false
    nt0 := [], nt1 := [], pt0 := [], pt1 := [], pal := [], oam := [], pixel := none }

/-- A cartridge into which no program has been loaded: one program bank and the one default character bank, every byte 0, NROM,
horizontal mirroring. DESIGN CHOICE, see log 1: the spec takes the cartridge from a loader (00_scope.md R16). -/
def Cart.unloaded : Cart :=
  { prg := [], prgBanks := 1, chr := [], chrBanks := 0, mirroring := .horizontal, mapper := .nrom }

/-- The parameters' defaults (00_scope.md R10): the count of R152 for every undefined opcode, and read parity odd. -/
def Params.default : Params := { undefCycles := [], dmaReadOdd := true }

/-- The machine right after `Bus.reset()` of the system constructed over `Cart.unloaded` (R43, R450 to R454). The reset vector of an
unloaded cartridge reads 0x0000. `launch` is the same for any cartridge and any power-on memories. -/
def State.reset : State :=
  { a := 0, x := 0, y := 0, sp := 0xFD, pc := 0x0000, p := 0x20
    opcode := 0, addrAbs := 0, addrRel := 0, fetched := 0, cycles := 8, clockCount := 0
    ram := [], padSr0 := 0, padSr1 := 0, master := 0, dma := Dma.reset
    ppu := Ppu.reset, cart := Cart.unloaded, params := Params.default, irqEvents := [], resets := 1 }

end Sys2Proof.Machine
end

