-- ==== Sys2Proof/Machine/Flags.lean ====
section
/-! DEFINITION. Bits, the status register P and every flag computation (10_state.md R23, R24; 43_arith_logic.md R230 to R237;
44_shift_rotate.md). -/

namespace Sys2Proof.Machine

/-- `v` with bit `i` set to `b`, for an 8-bit register (R12). -/
def setBit (v : Byte) (i : Nat) (b : Bool) : Byte :=
  (v &&& ~~~(1#8 <<< i)) ||| (if b then 1#8 <<< i else 0#8)

/-- The eight flags of P (R23). -/
inductive Flag where
  | C | Z | I | D | B | U | V | N
deriving DecidableEq, Repr

/-- The bit a flag stands in (R23). -/
def Flag.pos : Flag → Nat
  | .C => 0
  | .Z => 1
  | .I => 2
  | .D => 3
  | .B => 4
  | .U => 5
  | .V => 6
  | .N => 7

/-- The value of a flag in a status byte (R13). -/
def flagOf (p : Byte) (f : Flag) : Bool := p.getLsbD f.pos

/-- A status byte with one flag written (R13). -/
def withFlag (p : Byte) (f : Flag) (b : Bool) : Byte := setBit p f.pos b

/-- The flag `f` of P. -/
def State.flag (s : State) (f : Flag) : Bool := flagOf s.p f

/-- `P.f <- b`. -/
def State.setFlag (s : State) (f : Flag) (b : Bool) : State := s.setP (withFlag s.p f b)

/-- A status byte after `setZN(v)`: Z is "v is 0", N is bit 7 of v (R13). -/
def znByte (p v : Byte) : Byte := withFlag (withFlag p .Z (v == 0)) .N (v.getLsbD 7)

/-- `setZN(v)` (R13). -/
def State.setZN (s : State) (v : Byte) : State := s.setP (znByte s.p v)

/-- The sum of ADC as a natural number 0..511 (R231). -/
def adcSum (a m : Byte) (c : Bool) : Nat := a.toNat + m.toNat + c.toNat

/-- The result of ADC (R231). -/
def adcResult (a m : Byte) (c : Bool) : Byte := BitVec.ofNat 8 (adcSum a m c)

/-- The signed overflow of ADC, by the sign-bit formula of R231. -/
def adcOverflow (a m : Byte) (c : Bool) : Bool :=
  (~~~(a ^^^ m) &&& (a ^^^ adcResult a m c) &&& 0x80#8) != 0#8

/-- A status byte after ADC of `m` to `a` with carry `c` (R231). -/
def adcFlags (p a m : Byte) (c : Bool) : Byte :=
  znByte (withFlag (withFlag p .C (decide (adcSum a m c > 0xFF))) .V (adcOverflow a m c)) (adcResult a m c)

/-- The accumulator and flags of ADC with the operand `m` (R231). SBC is this on the complement of its operand (R232). -/
def State.addToA (s : State) (m : Byte) : State :=
  (s.setP (adcFlags s.p s.a m (s.flag .C))).setA (adcResult s.a m (s.flag .C))

/-- A status byte after `Compare(r, m)`; V is not written (R237). -/
def compareFlags (p r m : Byte) : Byte :=
  withFlag (withFlag (withFlag p .C (decide (m.toNat ≤ r.toNat))) .Z (r == m)) .N ((r - m).getLsbD 7)

/-- `Compare(r, m)` (R237). -/
def State.compare (s : State) (r m : Byte) : State := s.setP (compareFlags s.p r m)

/-- A status byte after BIT of `m` with `a`: Z from `a & m`, N and V from bits 7 and 6 of `m` (R236). -/
def bitFlags (p a m : Byte) : Byte :=
  withFlag (withFlag (withFlag p .Z ((a &&& m) == 0)) .N (m.getLsbD 7)) .V (m.getLsbD 6)

/-- A shift or rotate of one bit: the result and the carry out, from the operand and the carry in (R260 to R263). -/
abbrev ShiftFn := Byte → Bool → Byte × Bool

/-- ASL (R260). -/
def aslFn : ShiftFn := fun m _ => (m <<< 1, m.getLsbD 7)
/-- LSR (R261). -/
def lsrFn : ShiftFn := fun m _ => (m >>> 1, m.getLsbD 0)
/-- ROL: the old carry into bit 0 (R262). -/
def rolFn : ShiftFn := fun m c => ((m <<< 1) ||| (if c then 0x01 else 0x00), m.getLsbD 7)
/-- ROR: the old carry into bit 7 (R263). -/
def rorFn : ShiftFn := fun m c => ((if c then 0x80 else 0x00) ||| (m >>> 1), m.getLsbD 0)

/-- A status byte after a shift with result `r` and carry out `c` (R260 to R263). -/
def shiftFlags (p r : Byte) (c : Bool) : Byte := znByte (withFlag p .C c) r

/-- The status byte PHP and BRK push: bits 4 and 5 as 1 (R24, R222, R298). -/
def pushedStatus (p : Byte) : Byte := p ||| 0x30

/-- The status byte IRQ and NMI push, which is also P before I is set: bit 4 as 0, bit 5 as 1 (R24, R312, R313). -/
def interruptStatus (p : Byte) : Byte := withFlag (withFlag p .B false) .U true

/-- P from a pulled status byte: bit 4 stored as 0, bit 5 as 1 (R24, R224, R299). -/
def pulledStatus (v : Byte) : Byte := (v &&& 0xCF) ||| 0x20

end Sys2Proof.Machine
end

