-- ==== Sys2Proof/Machine/Memory.lean ====
section
/-! DEFINITION. Reading and writing one memory, and the results of the operations that can stop. -/

namespace Sys2Proof.Machine

/-- What an offset that a memory does not list reads as. DESIGN CHOICE for the memories whose power-on contents the spec leaves
open, see log 2. -/
def Memory.background : Byte := 0x00

/-- The byte at an offset. -/
def Memory.read : Memory → Nat → Byte
  | [], _ => Memory.background
  | (k, v) :: m, i => if k = i then v else Memory.read m i

/-- A memory without the entry of an offset. -/
def Memory.erase : Memory → Nat → Memory
  | [], _ => []
  | (k, v) :: m, i => if k = i then Memory.erase m i else (k, v) :: Memory.erase m i

/-- A memory with an entry put in at its place by offset. -/
def Memory.insert : Memory → Nat → Byte → Memory
  | [], i, b => [(i, b)]
  | (k, v) :: m, i, b => if i < k then (i, b) :: (k, v) :: m else (k, v) :: Memory.insert m i b

/-- The memory after a byte is written: the offset's entry goes, and a new one comes unless the byte is the background. -/
def Memory.write (m : Memory) (i : Nat) (b : Byte) : Memory :=
  if b = Memory.background then Memory.erase m i else Memory.insert (Memory.erase m i) i b

/-- Every entry's offset is at least `lo` and below `size`, offsets rise strictly, and no byte is the background. -/
def Memory.wfFrom (size : Nat) : Nat → Memory → Bool
  | _, [] => true
  | lo, (k, v) :: m => decide (lo ≤ k) && decide (k < size) && decide (v ≠ Memory.background) && Memory.wfFrom size (k + 1) m

/-- The canonical form of a memory of `size` bytes: equal memories are equal lists. -/
def Memory.wf (size : Nat) (m : Memory) : Bool := Memory.wfFrom size 0 m

/-- Why an operation stopped: with a fault, or without a meaning. -/
inductive Stop where
  | fault (r : Fault)
  | refused (r : Refusal)
deriving DecidableEq, Repr

/-- The result of an operation that may stop. -/
abbrev Run (α : Type) := Except Stop α

/-- A result as the host's outcome. -/
def toOutcome : Run State → Host.Outcome State Fault Refusal
  | .ok s => .next s
  | .error (.fault r) => .fault r
  | .error (.refused r) => .refused r

/-- The host's outcome as a result. -/
def ofOutcome : Host.Outcome State Fault Refusal → Run State
  | .next s => .ok s
  | .fault r => .error (.fault r)
  | .refused r => .error (.refused r)

end Sys2Proof.Machine
end

