-- ==== Sys2Proof/Machine/Video.lean ====
section
/-! DEFINITION. The mappers, the PPU address space and the PPU's eight ports as the CPU sees them (20_memory.md R90 to R117). -/

namespace Sys2Proof.Machine

/-! ### Register fields -/

/-- PPUCTRL.increment_mode as the step of `v` (R30, R94). -/
def Ppu.vStep (q : Ppu) : BitVec 15 := if q.ctrl.getLsbD 2 then 32 else 1
/-- PPUCTRL.pattern_sprite, bit 3. -/
def Ppu.patternSprite (q : Ppu) : Bool := q.ctrl.getLsbD 3
/-- PPUCTRL.pattern_background, bit 4. -/
def Ppu.patternBackground (q : Ppu) : Bool := q.ctrl.getLsbD 4
/-- PPUCTRL.sprite_size, bit 5: true for 8x16. -/
def Ppu.tallSprites (q : Ppu) : Bool := q.ctrl.getLsbD 5
/-- PPUCTRL.enable_nmi, bit 7. -/
def Ppu.enableNmi (q : Ppu) : Bool := q.ctrl.getLsbD 7
/-- PPUMASK.grayscale, bit 0 (R31). -/
def Ppu.grayscale (q : Ppu) : Bool := q.mask.getLsbD 0
/-- PPUMASK.render_background_left, bit 1. -/
def Ppu.backgroundLeft (q : Ppu) : Bool := q.mask.getLsbD 1
/-- PPUMASK.render_sprites_left, bit 2. -/
def Ppu.spritesLeft (q : Ppu) : Bool := q.mask.getLsbD 2
/-- PPUMASK.render_background, bit 3. -/
def Ppu.renderBackground (q : Ppu) : Bool := q.mask.getLsbD 3
/-- PPUMASK.render_sprites, bit 4. -/
def Ppu.renderSprites (q : Ppu) : Bool := q.mask.getLsbD 4
/-- "Rendering enabled" (R31). -/
def Ppu.rendering (q : Ppu) : Bool := q.renderBackground || q.renderSprites

/-- PPUSTATUS.sprite_overflow is bit 5 (R32). -/
def overflowBit : Nat := 5
/-- PPUSTATUS.sprite_zero_hit is bit 6 (R32). -/
def zeroHitBit : Nat := 6
/-- PPUSTATUS.vertical_blank is bit 7 (R32). -/
def vblankBit : Nat := 7
/-- A PPUSTATUS bit written. -/
def Ppu.setStatusBit (q : Ppu) (i : Nat) (b : Bool) : Ppu := { q with status := setBit q.status i b }

/-- `coarse_x` of a loopy register, bits 4..0 (R34). -/
def coarseX (r : BitVec 15) : BitVec 5 := r.extractLsb' 0 5
/-- `coarse_y`, bits 9..5. -/
def coarseY (r : BitVec 15) : BitVec 5 := r.extractLsb' 5 5
/-- `nametable_x`, bit 10. -/
def nametableX (r : BitVec 15) : Bool := r.getLsbD 10
/-- `nametable_y`, bit 11. -/
def nametableY (r : BitVec 15) : Bool := r.getLsbD 11
/-- `fine_y`, bits 14..12. -/
def fineY (r : BitVec 15) : BitVec 3 := r.extractLsb' 12 3
/-- A loopy register from its five fields (R34). -/
def loopy (fy : BitVec 3) (ny nx : Bool) (cy cx : BitVec 5) : BitVec 15 :=
  fy ++ BitVec.ofBool ny ++ BitVec.ofBool nx ++ cy ++ cx
/-- A loopy register with `coarse_x` written; a write to a field changes only that field (R34). -/
def withCoarseX (r : BitVec 15) (c : BitVec 5) : BitVec 15 := loopy (fineY r) (nametableY r) (nametableX r) (coarseY r) c
/-- `coarse_y` written. -/
def withCoarseY (r : BitVec 15) (c : BitVec 5) : BitVec 15 := loopy (fineY r) (nametableY r) (nametableX r) c (coarseX r)
/-- `nametable_x` written. -/
def withNametableX (r : BitVec 15) (b : Bool) : BitVec 15 := loopy (fineY r) (nametableY r) b (coarseY r) (coarseX r)
/-- `nametable_y` written. -/
def withNametableY (r : BitVec 15) (b : Bool) : BitVec 15 := loopy (fineY r) b (nametableX r) (coarseY r) (coarseX r)
/-- `fine_y` written. -/
def withFineY (r : BitVec 15) (f : BitVec 3) : BitVec 15 := loopy f (nametableY r) (nametableX r) (coarseY r) (coarseX r)

/-! ### Cartridge and mappers -/

/-- The variant a mapper id selects: 3 is CNROM, every other id NROM; `chr_bank` starts at 0 (R117, R453). -/
def Mapper.ofId (id : Byte) : Mapper := if id = 3 then .cnrom 0 else .nrom

/-- The length of PRG (00_scope.md R10). -/
def Cart.prgLen (c : Cart) : Nat := 16384 * c.prgBanks
/-- The length of CHR (00_scope.md R10). -/
def Cart.chrLen (c : Cart) : Nat := 8192 * max 1 c.chrBanks

/-- A mapper's answer to a read (R111). -/
inductive MapRead where
  | claimed (off : Nat)
  | notMine
deriving DecidableEq, Repr

/-- A mapper's answer to a write: store the byte at an offset; claimed for a side effect on the mapper's register, which leaves this
cartridge; or not its own (R111). -/
inductive MapWrite where
  | store (off : Nat)
  | handled (c : Cart)
  | notMine
deriving DecidableEq, Repr

/-- The offset in PRG of a CPU address: `a & 0x7FFF` with more than one bank, else `a & 0x3FFF` (R112). -/
def prgOffset (c : Cart) (a : Word) : Nat :=
  if c.prgBanks > 1 then (a &&& 0x7FFF).toNat else (a &&& 0x3FFF).toNat

/-- `cpuMapRead`, the same under both mappers (R112, R114). -/
def cpuMapRead (c : Cart) (a : Word) : MapRead :=
  if 0x8000 ≤ a.toNat then .claimed (prgOffset c a) else .notMine

/-- `cpuMapWrite`: NROM stores, CNROM selects a CHR bank (R112, R114). -/
def cpuMapWrite (c : Cart) (a : Word) (d : Byte) : MapWrite :=
  if 0x8000 ≤ a.toNat then
    match c.mapper with
    | .nrom => .store (prgOffset c a)
    | .cnrom _ => .handled { c with mapper := .cnrom (d.extractLsb' 0 2) }
  else .notMine

/-- `ppuMapRead` (R113, R115). -/
def ppuMapRead (c : Cart) (a : Word) : MapRead :=
  if a.toNat ≤ 0x1FFF then
    match c.mapper with
    | .nrom => .claimed a.toNat
    | .cnrom bank => .claimed (bank.toNat * 0x2000 + a.toNat)
  else .notMine

/-- `ppuMapWrite`: NROM stores, CNROM never claims (R113, R115). -/
def ppuMapWrite (c : Cart) (a : Word) : MapWrite :=
  if a.toNat ≤ 0x1FFF then
    match c.mapper with
    | .nrom => .store a.toNat
    | .cnrom _ => .notMine
  else .notMine

/-- `PRG[off]`, or the fault of R116. -/
def prgByte (c : Cart) (off : Nat) : Run Byte :=
  if off < c.prgLen then .ok (c.prg.read off) else .error (.fault .cartOffsetOutOfRange)

/-- `CHR[off]`, or the fault of R116. -/
def chrByte (c : Cart) (off : Nat) : Run Byte :=
  if off < c.chrLen then .ok (c.chr.read off) else .error (.fault .cartOffsetOutOfRange)

/-- `PRG[off] <- d`, or the fault of R116. -/
def prgStore (c : Cart) (off : Nat) (d : Byte) : Run Cart :=
  if off < c.prgLen then .ok { c with prg := c.prg.write off d } else .error (.fault .cartOffsetOutOfRange)

/-- `CHR[off] <- d`, or the fault of R116. -/
def chrStore (c : Cart) (off : Nat) (d : Byte) : Run Cart :=
  if off < c.chrLen then .ok { c with chr := c.chr.write off d } else .error (.fault .cartOffsetOutOfRange)

/-! ### PPU address space -/

/-- The low 14 bits of an address (R105). -/
def ppuAddr (a : Word) : Word := a &&& 0x3FFF

/-- The nametable a PPU address selects: true for table 1 (R107). -/
def ntSel (m : Mirroring) (a : Word) : Bool :=
  match m with
  | .vertical => a.getLsbD 10
  | .horizontal => a.getLsbD 11

/-- The offset within a nametable, `a & 0x03FF` (R107). -/
def ntOffset (a : Word) : Nat := (a &&& 0x03FF).toNat

/-- The offset within an internal pattern table, `a & 0x0FFF` (R105). -/
def ptOffset (a : Word) : Nat := (a &&& 0x0FFF).toNat

/-- The palette index: `a & 0x1F`, with 0x10, 0x14, 0x18, 0x1C as 0x00, 0x04, 0x08, 0x0C (R108). -/
def palIdx (a : Word) : Nat :=
  let i := (a &&& 0x1F).toNat
  if i = 0x10 ∨ i = 0x14 ∨ i = 0x18 ∨ i = 0x1C then i - 0x10 else i

/-- A palette read: the stored byte masked with 0x30 in grayscale and with 0x3F otherwise (R109). -/
def palRead (q : Ppu) (a : Word) : Byte :=
  q.pal.read (palIdx a) &&& (if q.grayscale then 0x30 else 0x3F)

/-- `PpuRead(a)` (R105). -/
def ppuRead (c : Cart) (q : Ppu) (a : Word) : Run Byte :=
  let a := ppuAddr a
  match ppuMapRead c a with
  | .claimed off => chrByte c off
  | .notMine =>
    if a.toNat ≤ 0x1FFF then .ok ((if a.getLsbD 12 then q.pt1 else q.pt0).read (ptOffset a))
    else if a.toNat ≤ 0x3EFF then .ok ((if ntSel c.mirroring a then q.nt1 else q.nt0).read (ntOffset a))
    else .ok (palRead q a)

/-- A byte written to the internal pattern tables (R110). -/
def Ppu.writePt (q : Ppu) (a : Word) (d : Byte) : Ppu :=
  if a.getLsbD 12 then { q with pt1 := q.pt1.write (ptOffset a) d } else { q with pt0 := q.pt0.write (ptOffset a) d }

/-- A byte written to the nametables (R110, R107). -/
def Ppu.writeNt (q : Ppu) (m : Mirroring) (a : Word) (d : Byte) : Ppu :=
  if ntSel m a then { q with nt1 := q.nt1.write (ntOffset a) d } else { q with nt0 := q.nt0.write (ntOffset a) d }

/-- `PpuWrite(a, d)`: the cartridge and the PPU after it (R110). -/
def ppuWrite (c : Cart) (q : Ppu) (a : Word) (d : Byte) : Run (Cart × Ppu) :=
  let a := ppuAddr a
  match ppuMapWrite c a with
  | .store off => do
    let c ← chrStore c off d
    .ok (c, q)
  | .handled c => .ok (c, q)
  | .notMine =>
    if a.toNat ≤ 0x1FFF then .ok (c, q.writePt a d)
    else if a.toNat ≤ 0x3EFF then .ok (c, q.writeNt c.mirroring a d)
    else .ok (c, { q with pal := q.pal.write (palIdx a) d })

/-! ### The eight ports -/

/-- The eight PPU ports (R90). -/
inductive PpuPort where
  | ctrl | mask | status | oamAddr | oamData | scroll | addr | data
deriving DecidableEq, Repr

/-- The port of a CPU address, by `a & 7` (R83, R90). -/
def portOf (a : Word) : PpuPort :=
  match (a &&& 7).toNat with
  | 0 => .ctrl
  | 1 => .mask
  | 2 => .status
  | 3 => .oamAddr
  | 4 => .oamData
  | 5 => .scroll
  | 6 => .addr
  | _ => .data

/-- `v` as a PPU address: its low 14 bits are taken by the access (R34, R105). -/
def Ppu.vAddr (q : Ppu) : Word := q.v.setWidth 16

/-- `v` moved on after a PPUDATA access, modulo 2^15 (R94, R101). -/
def Ppu.stepV (q : Ppu) : Ppu := { q with v := q.v + q.vStep }

/-- A PPUSTATUS read: the three flags over the low five bits of the read buffer; vertical blank and the latch are cleared (R92). -/
def readPpuStatus (q : Ppu) : Byte × Ppu :=
  ((q.status &&& 0xE0) ||| (q.dataBuffer &&& 0x1F), { q.setStatusBit vblankBit false with w := false })

/-- A PPUDATA read: the buffered byte, or the byte itself for a palette address; the buffer is refilled and `v` moves on (R94). -/
def readPpuData (c : Cart) (q : Ppu) : Run (Byte × Ppu) := do
  let b ← ppuRead c q q.vAddr
  let r := if 0x3F00 ≤ (ppuAddr q.vAddr).toNat then b else q.dataBuffer
  .ok (r, { q with dataBuffer := b }.stepV)

/-- `PpuPortRead(p)` (R90 to R94). -/
def ppuPortRead (c : Cart) (p : PpuPort) (q : Ppu) : Run (Byte × Ppu) :=
  match p with
  | .ctrl => .ok (0x00, q)
  | .mask => .ok (0x00, q)
  | .status => .ok (readPpuStatus q)
  | .oamAddr => .ok (0x00, q)
  | .oamData => .ok (q.oam.read q.oamAddr.toNat, q)
  | .scroll => .ok (0x00, q)
  | .addr => .ok (0x00, q)
  | .data => readPpuData c q

/-- A PPUCTRL write (R95). -/
def writePpuCtrl (q : Ppu) (d : Byte) : Ppu :=
  { q with ctrl := d, t := withNametableY (withNametableX q.t (d.getLsbD 0)) (d.getLsbD 1) }

/-- An OAMDATA write (R98). -/
def writeOamData (q : Ppu) (d : Byte) : Ppu :=
  { q with oam := q.oam.write q.oamAddr.toNat d, oamAddr := q.oamAddr + 1 }

/-- A PPUSCROLL write, first or second stage by the latch `w` (R99). -/
def writePpuScroll (q : Ppu) (d : Byte) : Ppu :=
  if q.w then { q with t := withCoarseY (withFineY q.t (d.extractLsb' 0 3)) (d.extractLsb' 3 5), w := false }
  else { q with fineX := d.extractLsb' 0 3, t := withCoarseX q.t (d.extractLsb' 3 5), w := true }

/-- A PPUADDR write, first or second stage by the latch `w` (R100). -/
def writePpuAddr (q : Ppu) (d : Byte) : Ppu :=
  if q.w then
    let t := (q.t &&& 0x7F00) ||| d.setWidth 15
    { q with t := t, v := t, w := false }
  else { q with t := ((d &&& 0x3F).setWidth 15 <<< 8) ||| (q.t &&& 0x00FF), w := true }

/-- `PpuPortWrite(p, d)`: the cartridge and the PPU after it (R90, R95 to R101). -/
def ppuPortWrite (c : Cart) (p : PpuPort) (q : Ppu) (d : Byte) : Run (Cart × Ppu) :=
  match p with
  | .ctrl => .ok (c, writePpuCtrl q d)
  | .mask => .ok (c, { q with mask := d })
  | .status => .ok (c, q)
  | .oamAddr => .ok (c, { q with oamAddr := d })
  | .oamData => .ok (c, writeOamData q d)
  | .scroll => .ok (c, writePpuScroll q d)
  | .addr => .ok (c, writePpuAddr q d)
  | .data => do
    let (c, q) ← ppuWrite c q q.vAddr d
    .ok (c, q.stepV)

end Sys2Proof.Machine
end

