-- ==== Sys2Proof/Machine/Ops.lean ====
section
/-! DEFINITION. The CPU bus, the stack, and the entries into and returns from a handler (20_memory.md R77 to R88, 42_stack.md R220,
60_exceptions.md R311 to R318). Every CPU and DMA access goes through `busRead` and `busWrite`. -/

namespace Sys2Proof.Machine

/-! ### Bus -/

/-- The byte of RAM an address selects, `a & 0x07FF` (R82). -/
def ramIndex (a : Word) : Nat := (a &&& 0x07FF).toNat

/-- A controller shift register. -/
def State.padSr (s : State) (i : Fin 2) : Byte := if i = 0 then s.padSr0 else s.padSr1
/-- A controller shift register written. -/
def State.setPadSr (s : State) (i : Fin 2) (v : Byte) : State := if i = 0 then s.setPadSr0 v else s.setPadSr1 v

/-- The byte a controller read returns: bit 7 of the shift register as 0x00 or 0x01 (R84). -/
def padBit (v : Byte) : Byte := if v.getLsbD 7 then 0x01 else 0x00

/-- `PadRead(i)` (R84). -/
def padRead (i : Fin 2) (s : State) : Byte × State :=
  (padBit (s.padSr i), s.setPadSr i (s.padSr i <<< 1))

/-- `PadWrite(i)`: the host's snapshot of this moment is latched; the data byte is ignored (R85). -/
def padWrite (i : Fin 2) (s : State) : State := s.setPadSr i (Config.pad i s.resets s.master)

/-- `DmaStart(v)` (R86). -/
def dmaStart (v : Byte) (s : State) : State :=
  s.setDma { s.dma with page := v, offset := 0, active := true, align := true }

/-- `Read(a)`: the mapper first, then RAM, PPU ports, controllers; any other address reads 0 (R80, R88). -/
def busRead (a : Word) (s : State) : Run (Byte × State) :=
  match cpuMapRead s.cart a with
  | .claimed off => do
    let b ← prgByte s.cart off
    .ok (b, s)
  | .notMine =>
    if a.toNat ≤ 0x1FFF then .ok (s.ram.read (ramIndex a), s)
    else if a.toNat ≤ 0x3FFF then do
      let (b, q) ← ppuPortRead s.cart (portOf a) s.ppu
      .ok (b, s.setPpu q)
    else if a = 0x4016 then .ok (padRead 0 s)
    else if a = 0x4017 then .ok (padRead 1 s)
    else .ok (0x00, s)

/-- `Write(a, v)` (R81, R88). -/
def busWrite (a : Word) (v : Byte) (s : State) : Run State :=
  match cpuMapWrite s.cart a v with
  | .store off => do
    let c ← prgStore s.cart off v
    .ok (s.setCart c)
  | .handled c => .ok (s.setCart c)
  | .notMine =>
    if a.toNat ≤ 0x1FFF then .ok (s.setRam (s.ram.write (ramIndex a) v))
    else if a.toNat ≤ 0x3FFF then do
      let (c, q) ← ppuPortWrite s.cart (portOf a) s.ppu v
      .ok ((s.setCart c).setPpu q)
    else if a = 0x4014 then .ok (dmaStart v s)
    else if a = 0x4016 then .ok (padWrite 0 s)
    else if a = 0x4017 then .ok (padWrite 1 s)
    else .ok s

/-! ### Stack -/

/-- The address `0x0100 + SP` of the next free stack byte (R220). -/
def stackAddr (sp : Byte) : Word := wordOf sp 0x01

/-- `Push(v)`: write, then decrement SP within 8 bits (R220). -/
def push (v : Byte) (s : State) : Run State := do
  let s ← busWrite (stackAddr s.sp) v s
  .ok (s.setSp (s.sp - 1))

/-- `Pull()`: increment SP within 8 bits, then read (R220). -/
def pull (s : State) : Run (Byte × State) :=
  busRead (stackAddr (s.sp + 1)) (s.setSp (s.sp + 1))

/-- A 16-bit value pushed, high byte first (R70, R225). -/
def pushWord (w : Word) (s : State) : Run State := do
  let s ← push (highByte w) s
  push (lowByte w) s

/-- Two bytes pulled, low byte first (R225). -/
def pullWord (s : State) : Run (Word × State) := do
  let (lo, s) ← pull s
  let (hi, s) ← pull s
  .ok (wordOf lo hi, s)

/-- The two bytes at two addresses, the first of them read first and the low byte (R70, R71). -/
def readPair (loAddr hiAddr : Word) (s : State) : Run (Word × State) := do
  let (lo, s) ← busRead loAddr s
  let (hi, s) ← busRead hiAddr s
  .ok (wordOf lo hi, s)

/-! ### Entering and leaving a handler -/

/-- The NMI vector (R78). -/
def nmiVector : Word := 0xFFFA
/-- The reset vector (R78). -/
def resetVector : Word := 0xFFFC
/-- The IRQ and BRK vector (R78). -/
def irqVector : Word := 0xFFFE

/-- The entry BRK, IRQ and NMI share: PC and the status byte `pushed` go to the stack, P becomes `after` with I set, and PC comes
from the vector (R311 to R313, R317, R298). -/
def enterHandler (vector : Word) (pushed after : Byte) (s : State) : Run State := do
  let s ← pushWord s.pc s
  let s ← push pushed s
  let s := s.setP (withFlag after .I true)
  let (w, s) ← readPair vector (vector + 1) s
  .ok (s.setPc w)

/-- BRK's entry: B and U are 1 in the pushed byte, and B is 0 in P afterwards (R298). -/
def enterBrk (s : State) : Run State :=
  enterHandler irqVector (pushedStatus s.p) (withFlag s.p .B false) s

/-- `CPU.irq()`: nothing at all when I is set, else the entry and a countdown of 7 (R312). -/
def cpuIrq (s : State) : Run State :=
  if s.flag .I then .ok s
  else do
    let s ← enterHandler irqVector (interruptStatus s.p) (interruptStatus s.p) s
    .ok (s.setCycles 7)

/-- `CPU.nmi()`: the entry whatever I holds, and a countdown of 8 (R313). -/
def cpuNmi (s : State) : Run State := do
  let s ← enterHandler nmiVector (interruptStatus s.p) (interruptStatus s.p) s
  .ok (s.setCycles 8)

/-- The return RTI makes: P (with B as 0 and U as 1), then PC, with no adjustment (R299, R318). -/
def returnFromHandler (s : State) : Run State := do
  let (v, s) ← pull s
  let s := s.setP (pulledStatus v)
  let (w, s) ← pullWord s
  .ok (s.setPc w)

/-! ### Countdown -/

/-- The CPU cycles an undefined opcode takes: UNDEF_CYCLES, the default of R152 where the run sets no other (R10, R300). -/
def State.undefCycles (s : State) (op : Byte) : Nat :=
  match s.params.undefCycles.find? (fun e => e.1 == op) with
  | some (_, n) => n.val + 1
  | none => baseCycles op

/-- `cycles <- cycles + n`. -/
def State.addCycles (s : State) (n : Nat) : State := s.setCycles (s.cycles + n)

/-- The end of every CPU cycle: `clock_count` rises, the countdown falls (R171). -/
def State.countDown (s : State) : State := (s.setClockCount (s.clockCount + 1)).setCycles (s.cycles - 1)

end Sys2Proof.Machine
end

