-- ==== Sys2Proof/Machine/Operands.lean ====
section
/-! DEFINITION. The addressing modes and the shapes an instruction has around its operation: mode routine, operation routine, extra cycle
(30_encoding.md R132 to R145, 40_dispatch.md R171, R173). A meaning starts with PC past the instruction, its operand bytes
already read (R180). -/

namespace Sys2Proof.Machine

/-! ### Forms as operands -/

/-- The operand of a form. -/
def srcOperand : Src8 → Operand
  | .imm b => .imm b
  | .zp0 z => .mem (.zp0 z)
  | .zpx z => .mem (.zpx z)
  | .abs w => .mem (.abs w)
  | .abx w => .mem (.abx w)
  | .aby w => .mem (.aby w)
  | .izx z => .mem (.izx z)
  | .izy z => .mem (.izy z)

/-- The operand of an LDX form. -/
def ldxOperand : LdxSrc → Operand
  | .imm b => .imm b
  | .zp0 z => .mem (.zp0 z)
  | .zpy z => .mem (.zpy z)
  | .abs w => .mem (.abs w)
  | .aby w => .mem (.aby w)

/-- The operand of an LDY form. -/
def ldyOperand : LdySrc → Operand
  | .imm b => .imm b
  | .zp0 z => .mem (.zp0 z)
  | .zpx z => .mem (.zpx z)
  | .abs w => .mem (.abs w)
  | .abx w => .mem (.abx w)

/-- The operand of a CPX or CPY form. -/
def cpOperand : CpSrc → Operand
  | .imm b => .imm b
  | .zp0 z => .mem (.zp0 z)
  | .abs w => .mem (.abs w)

/-- The operand of a BIT form. -/
def bitOperand : BitSrc → Operand
  | .zp0 z => .mem (.zp0 z)
  | .abs w => .mem (.abs w)

/-- The destination of an STA form. -/
def staAddr : StaDst → Addr
  | .zp0 z => .zp0 z
  | .zpx z => .zpx z
  | .abs w => .abs w
  | .abx w => .abx w
  | .aby w => .aby w
  | .izx z => .izx z
  | .izy z => .izy z

/-- The destination of an STX form. -/
def stxAddr : StxDst → Addr
  | .zp0 z => .zp0 z
  | .zpy z => .zpy z
  | .abs w => .abs w

/-- The destination of an STY form. -/
def styAddr : StyDst → Addr
  | .zp0 z => .zp0 z
  | .zpx z => .zpx z
  | .abs w => .abs w

/-- The operand address of INC, DEC and the memory shifts. -/
def rmwAddr : RmwDst → Addr
  | .zp0 z => .zp0 z
  | .zpx z => .zpx z
  | .abs w => .abs w
  | .abx w => .abx w

/-! ### Mode routines -/

/-- An 8-bit zero-page address as a bus address (R135). -/
def zeroPage (z : Byte) : Word := wordOf z 0x00

/-- The extra-cycle signal of an indexed mode: the sum has another high byte than the base (R140). -/
def pageCrossed (base ea : Word) : Bool := highByte ea != highByte base

/-- A base address with an index register added, and whether the page changed (R140, R141, R144). -/
def indexed (base : Word) (i : Byte) : Word × Bool :=
  let ea := base + i.setWidth 16
  (ea, pageCrossed base ea)

/-- The pointer at `z` in page 0, both bytes within the page (R143, R144). -/
def zeroPagePointer (z : Byte) (s : State) : Run (Word × State) :=
  readPair (zeroPage z) (zeroPage (z + 1)) s

/-- The effective address of a memory mode, its extra-cycle signal, and the state after the pointer reads it makes (R135 to R144). -/
def effectiveAddr (m : Addr) (s : State) : Run (Word × Bool × State) :=
  match m with
  | .zp0 z => .ok (zeroPage z, false, s)
  | .zpx z => .ok (zeroPage (z + s.x), false, s)
  | .zpy z => .ok (zeroPage (z + s.y), false, s)
  | .abs w => .ok (w, false, s)
  | .abx w => .ok ((indexed w s.x).1, (indexed w s.x).2, s)
  | .aby w => .ok ((indexed w s.y).1, (indexed w s.y).2, s)
  | .izx z => do
    let (w, s) ← zeroPagePointer (z + s.x) s
    .ok (w, false, s)
  | .izy z => do
    let (w, s) ← zeroPagePointer z s
    .ok ((indexed w s.y).1, (indexed w s.y).2, s)

/-- A memory mode's routine: `addr_abs` takes the effective address. -/
def resolve (m : Addr) (s : State) : Run (Word × Bool × State) := do
  let (ea, cross, s) ← effectiveAddr m s
  .ok (ea, cross, s.setAddrAbs ea)

/-- The operand fetch at an effective address: `fetched <- Read(addr_abs)` (R145). -/
def fetchOperand (ea : Word) (s : State) : Run (Byte × State) := do
  let (b, s) ← busRead ea s
  .ok (b, s.setFetched b)

/-- A mode's routine and the operand fetch after it: the operand, the extra-cycle signal, and the state. An immediate operand stands
just before PC, was read with the instruction, and is the byte at `addr_abs` (R134, R145). -/
def readOperand (o : Operand) (s : State) : Run (Byte × Bool × State) :=
  match o with
  | .imm b => .ok (b, false, (s.setAddrAbs (s.pc - 1)).setFetched b)
  | .mem m => do
    let (ea, cross, s) ← resolve m s
    let (b, s) ← fetchOperand ea s
    .ok (b, cross, s)

/-! ### Instruction shapes -/

/-- An operation on an operand that is read. `asksExtra` is the operation's extra-cycle signal: one cycle is added when it and the
mode's signal are both 1 (R173). -/
def readInstr (op : Byte) (o : Operand) (asksExtra : Bool) (f : Byte → State → State) (s : State) : Run State := do
  let (b, cross, s) ← readOperand o (s.setCycles (baseCycles op))
  .ok ((f b s).addCycles (cross && asksExtra).toNat)

/-- A store of a register: no read at the address, no extra cycle (R173, R179, R203). -/
def storeInstr (op : Byte) (m : Addr) (r : State → Byte) (s : State) : Run State := do
  let (ea, _, s) ← resolve m (s.setCycles (baseCycles op))
  busWrite ea (r s) s

/-- A read-modify-write of a byte in memory: one read, then one write, of the same address; `f` gives the new byte and the new P
(R179, R241, R264). -/
def rmwInstr (op : Byte) (m : Addr) (f : Byte → Byte → Byte × Byte) (s : State) : Run State := do
  let (ea, _, s) ← resolve m (s.setCycles (baseCycles op))
  let (b, s) ← fetchOperand ea s
  busWrite ea (f b s.p).1 (s.setP (f b s.p).2)

/-- The start of an instruction of mode IMP: `fetched <- A` (R133). -/
def impliedStart (n : Nat) (s : State) : State := (s.setCycles n).setFetched s.a

/-- An instruction of mode IMP that makes no bus access. -/
def impliedInstr (op : Byte) (f : State → State) (s : State) : Run State :=
  .ok (f (impliedStart (baseCycles op) s))

/-- An instruction of mode IMP that pulls from or pushes to the stack. -/
def stackInstr (op : Byte) (f : State → Run State) (s : State) : Run State :=
  f (impliedStart (baseCycles op) s)

/-- A shift or rotate, in the accumulator or in memory (R264). -/
def shiftInstr (op : Byte) (d : ShiftDst) (f : ShiftFn) (s : State) : Run State :=
  match d with
  | .acc => impliedInstr op (fun s =>
      let r := f s.a (s.flag .C)
      (s.setP (shiftFlags s.p r.1 r.2)).setA r.1) s
  | .mem m => rmwInstr op (rmwAddr m) (fun b p =>
      let r := f b (flagOf p .C)
      (r.1, shiftFlags p r.1 r.2)) s

/-- The target of a branch: PC after the instruction plus the sign-extended displacement (R138, R273). -/
def branchTarget (pc : Word) (d : Byte) : Word := pc + d.signExtend 16

/-- The cycles a branch adds: 1 when taken, 1 more when the target is in another page than the next instruction (R273). -/
def branchCycles (pc target : Word) (taken : Bool) : Nat :=
  if taken then (if pageCrossed pc target then 2 else 1) else 0

/-- A branch with its condition (R273). -/
def branchInstr (op : Byte) (d : Byte) (cond : State → Bool) (s : State) : Run State :=
  let target := branchTarget s.pc d
  let t := ((s.setCycles (baseCycles op)).setAddrRel (d.signExtend 16)).addCycles (branchCycles s.pc target (cond s))
  .ok (if cond s then t.setPc target else t)

end Sys2Proof.Machine
end

