-- ==== Sys2Proof/Machine/Arith.lean ====
section
/-! DEFINITION. Arithmetic, logic, compare, increment and decrement (43_arith_logic.md R231 to R246). -/

namespace Sys2Proof.Machine

/-- ADC: A plus the operand plus carry, always binary (R231). -/
def execAdc (m : Src8) (s : State) : Host.Outcome State Fault Refusal :=
  toOutcome (readInstr (opcodeOf (.adc m)) (srcOperand m) true (fun b t => t.addToA b) s)

/-- SBC: A minus the operand minus borrow, as ADC of the complement (R232). -/
def execSbc (m : Src8) (s : State) : Host.Outcome State Fault Refusal :=
  toOutcome (readInstr (opcodeOf (.sbc m)) (srcOperand m) true (fun b t => t.addToA (b ^^^ 0xFF)) s)

/-- AND: bitwise and with A (R233). -/
def execAnd (m : Src8) (s : State) : Host.Outcome State Fault Refusal :=
  toOutcome (readInstr (opcodeOf (.and m)) (srcOperand m) true (fun b t => (t.setA (t.a &&& b)).setZN (t.a &&& b)) s)

/-- ORA: bitwise or with A (R234). -/
def execOra (m : Src8) (s : State) : Host.Outcome State Fault Refusal :=
  toOutcome (readInstr (opcodeOf (.ora m)) (srcOperand m) true (fun b t => (t.setA (t.a ||| b)).setZN (t.a ||| b)) s)

/-- EOR: bitwise exclusive or with A (R235). -/
def execEor (m : Src8) (s : State) : Host.Outcome State Fault Refusal :=
  toOutcome (readInstr (opcodeOf (.eor m)) (srcOperand m) true (fun b t => (t.setA (t.a ^^^ b)).setZN (t.a ^^^ b)) s)

/-- BIT: bit test; only flags change (R236). -/
def execBit (m : BitSrc) (s : State) : Host.Outcome State Fault Refusal :=
  toOutcome (readInstr (opcodeOf (.bit m)) (bitOperand m) false (fun b t => t.setP (bitFlags t.p t.a b)) s)

/-- CMP: compare A (R238). -/
def execCmp (m : Src8) (s : State) : Host.Outcome State Fault Refusal :=
  toOutcome (readInstr (opcodeOf (.cmp m)) (srcOperand m) true (fun b t => t.compare t.a b) s)

/-- CPX: compare X (R239). -/
def execCpx (m : CpSrc) (s : State) : Host.Outcome State Fault Refusal :=
  toOutcome (readInstr (opcodeOf (.cpx m)) (cpOperand m) false (fun b t => t.compare t.x b) s)

/-- CPY: compare Y (R240). -/
def execCpy (m : CpSrc) (s : State) : Host.Outcome State Fault Refusal :=
  toOutcome (readInstr (opcodeOf (.cpy m)) (cpOperand m) false (fun b t => t.compare t.y b) s)

/-- INC: the byte in memory plus 1 (R241). -/
def execInc (m : RmwDst) (s : State) : Host.Outcome State Fault Refusal :=
  toOutcome (rmwInstr (opcodeOf (.inc m)) (rmwAddr m) (fun b p => (b + 1, znByte p (b + 1))) s)

/-- DEC: the byte in memory minus 1 (R244). -/
def execDec (m : RmwDst) (s : State) : Host.Outcome State Fault Refusal :=
  toOutcome (rmwInstr (opcodeOf (.dec m)) (rmwAddr m) (fun b p => (b - 1, znByte p (b - 1))) s)

/-- INX: X plus 1 (R242). -/
def execInx (s : State) : Host.Outcome State Fault Refusal :=
  toOutcome (impliedInstr (opcodeOf .inx) (fun t => (t.setX (t.x + 1)).setZN (t.x + 1)) s)

/-- INY: Y plus 1 (R243). -/
def execIny (s : State) : Host.Outcome State Fault Refusal :=
  toOutcome (impliedInstr (opcodeOf .iny) (fun t => (t.setY (t.y + 1)).setZN (t.y + 1)) s)

/-- DEX: X minus 1 (R245). -/
def execDex (s : State) : Host.Outcome State Fault Refusal :=
  toOutcome (impliedInstr (opcodeOf .dex) (fun t => (t.setX (t.x - 1)).setZN (t.x - 1)) s)

/-- DEY: Y minus 1 (R246). -/
def execDey (s : State) : Host.Outcome State Fault Refusal :=
  toOutcome (impliedInstr (opcodeOf .dey) (fun t => (t.setY (t.y - 1)).setZN (t.y - 1)) s)

end Sys2Proof.Machine
end

