-- ==== Sys2Proof/Machine/Control.lean ====
section
/-! DEFINITION. Jumps, subroutine calls and branches (45_control_transfer.md R270 to R281). -/

namespace Sys2Proof.Machine

/-- The target of a jump: the operand, or the word its pointer holds, whose second byte stays in the pointer's page (R139, R142). -/
def jumpTarget (m : JmpTarget) (s : State) : Run (Word × State) :=
  match m with
  | .abs w => .ok (w, s)
  | .ind w => readPair w (if lowByte w = 0xFF then w &&& 0xFF00 else w + 1) s

/-- JMP: PC takes the target (R270). -/
def execJmp (m : JmpTarget) (s : State) : Host.Outcome State Fault Refusal :=
  toOutcome (do
    let (w, t) ← jumpTarget m (s.setCycles (baseCycles (opcodeOf (.jmp m))))
    .ok ((t.setAddrAbs w).setPc w))

/-- JSR: the address of JSR's last byte is pushed, PC takes the target (R271). -/
def execJsr (w : Word) (s : State) : Host.Outcome State Fault Refusal :=
  toOutcome (do
    let t ← pushWord (s.pc - 1) ((s.setCycles (baseCycles (opcodeOf (.jsr w)))).setAddrAbs w)
    .ok (t.setPc w))

/-- RTS: PC takes the pulled word plus 1 (R272). -/
def execRts (s : State) : Host.Outcome State Fault Refusal :=
  toOutcome (stackInstr (opcodeOf .rts) (fun t => do
    let (w, t) ← pullWord t
    .ok (t.setPc (w + 1))) s)

/-- BCC: branch if carry is clear (R274). -/
def execBcc (d : Byte) (s : State) : Host.Outcome State Fault Refusal :=
  toOutcome (branchInstr (opcodeOf (.bcc d)) d (fun t => !t.flag .C) s)

/-- BCS: branch if carry is set (R275). -/
def execBcs (d : Byte) (s : State) : Host.Outcome State Fault Refusal :=
  toOutcome (branchInstr (opcodeOf (.bcs d)) d (fun t => t.flag .C) s)

/-- BEQ: branch if zero is set (R276). -/
def execBeq (d : Byte) (s : State) : Host.Outcome State Fault Refusal :=
  toOutcome (branchInstr (opcodeOf (.beq d)) d (fun t => t.flag .Z) s)

/-- BMI: branch if negative is set (R277). -/
def execBmi (d : Byte) (s : State) : Host.Outcome State Fault Refusal :=
  toOutcome (branchInstr (opcodeOf (.bmi d)) d (fun t => t.flag .N) s)

/-- BNE: branch if zero is clear (R278). -/
def execBne (d : Byte) (s : State) : Host.Outcome State Fault Refusal :=
  toOutcome (branchInstr (opcodeOf (.bne d)) d (fun t => !t.flag .Z) s)

/-- BPL: branch if negative is clear (R279). -/
def execBpl (d : Byte) (s : State) : Host.Outcome State Fault Refusal :=
  toOutcome (branchInstr (opcodeOf (.bpl d)) d (fun t => !t.flag .N) s)

/-- BVC: branch if overflow is clear (R280). -/
def execBvc (d : Byte) (s : State) : Host.Outcome State Fault Refusal :=
  toOutcome (branchInstr (opcodeOf (.bvc d)) d (fun t => !t.flag .V) s)

/-- BVS: branch if overflow is set (R281). -/
def execBvs (d : Byte) (s : State) : Host.Outcome State Fault Refusal :=
  toOutcome (branchInstr (opcodeOf (.bvs d)) d (fun t => t.flag .V) s)

end Sys2Proof.Machine
end

