-- ==== Sys2Proof/Machine/LoadStore.lean ====
section
/-! DEFINITION. Loads, stores and register transfers (41_load_store_transfer.md R200 to R211). -/

namespace Sys2Proof.Machine

/-- LDA: A takes the operand (R200). -/
def execLda (m : Src8) (s : State) : Host.Outcome State Fault Refusal :=
  toOutcome (readInstr (opcodeOf (.lda m)) (srcOperand m) true (fun b t => (t.setA b).setZN b) s)

/-- LDX: X takes the operand (R201). -/
def execLdx (m : LdxSrc) (s : State) : Host.Outcome State Fault Refusal :=
  toOutcome (readInstr (opcodeOf (.ldx m)) (ldxOperand m) true (fun b t => (t.setX b).setZN b) s)

/-- LDY: Y takes the operand (R202). -/
def execLdy (m : LdySrc) (s : State) : Host.Outcome State Fault Refusal :=
  toOutcome (readInstr (opcodeOf (.ldy m)) (ldyOperand m) true (fun b t => (t.setY b).setZN b) s)

/-- STA: A is written to the effective address (R203). -/
def execSta (m : StaDst) (s : State) : Host.Outcome State Fault Refusal :=
  toOutcome (storeInstr (opcodeOf (.sta m)) (staAddr m) State.a s)

/-- STX: X is written to the effective address (R204). -/
def execStx (m : StxDst) (s : State) : Host.Outcome State Fault Refusal :=
  toOutcome (storeInstr (opcodeOf (.stx m)) (stxAddr m) State.x s)

/-- STY: Y is written to the effective address (R205). -/
def execSty (m : StyDst) (s : State) : Host.Outcome State Fault Refusal :=
  toOutcome (storeInstr (opcodeOf (.sty m)) (styAddr m) State.y s)

/-- TAX: A to X (R206). -/
def execTax (s : State) : Host.Outcome State Fault Refusal :=
  toOutcome (impliedInstr (opcodeOf .tax) (fun t => (t.setX t.a).setZN t.a) s)

/-- TAY: A to Y (R207). -/
def execTay (s : State) : Host.Outcome State Fault Refusal :=
  toOutcome (impliedInstr (opcodeOf .tay) (fun t => (t.setY t.a).setZN t.a) s)

/-- TXA: X to A (R208). -/
def execTxa (s : State) : Host.Outcome State Fault Refusal :=
  toOutcome (impliedInstr (opcodeOf .txa) (fun t => (t.setA t.x).setZN t.x) s)

/-- TYA: Y to A (R209). -/
def execTya (s : State) : Host.Outcome State Fault Refusal :=
  toOutcome (impliedInstr (opcodeOf .tya) (fun t => (t.setA t.y).setZN t.y) s)

/-- TSX: SP to X (R210). -/
def execTsx (s : State) : Host.Outcome State Fault Refusal :=
  toOutcome (impliedInstr (opcodeOf .tsx) (fun t => (t.setX t.sp).setZN t.sp) s)

/-- TXS: X to SP, no flag (R211). -/
def execTxs (s : State) : Host.Outcome State Fault Refusal :=
  toOutcome (impliedInstr (opcodeOf .txs) (fun t => t.setSp t.x) s)

end Sys2Proof.Machine
end

