-- ==== Sys2Proof/Machine/Shift.lean ====
section
/-! DEFINITION. Shifts and rotates (44_shift_rotate.md R260 to R264). -/

namespace Sys2Proof.Machine

/-- ASL: shift left, 0 into bit 0, bit 7 into C (R260, R264). -/
def execAsl (m : ShiftDst) (s : State) : Host.Outcome State Fault Refusal :=
  toOutcome (shiftInstr (opcodeOf (.asl m)) m aslFn s)

/-- LSR: shift right, 0 into bit 7, bit 0 into C (R261, R264). -/
def execLsr (m : ShiftDst) (s : State) : Host.Outcome State Fault Refusal :=
  toOutcome (shiftInstr (opcodeOf (.lsr m)) m lsrFn s)

/-- ROL: rotate left through C (R262, R264). -/
def execRol (m : ShiftDst) (s : State) : Host.Outcome State Fault Refusal :=
  toOutcome (shiftInstr (opcodeOf (.rol m)) m rolFn s)

/-- ROR: rotate right through C (R263, R264). -/
def execRor (m : ShiftDst) (s : State) : Host.Outcome State Fault Refusal :=
  toOutcome (shiftInstr (opcodeOf (.ror m)) m rorFn s)

end Sys2Proof.Machine
end

