-- ==== Sys2Proof/Machine/StackOps.lean ====
section
/-! DEFINITION. The stack instructions (42_stack.md R221 to R224). -/

namespace Sys2Proof.Machine

/-- PHA: A is pushed (R221). -/
def execPha (s : State) : Host.Outcome State Fault Refusal :=
  toOutcome (stackInstr (opcodeOf .pha) (fun t => push t.a t) s)

/-- PHP: P is pushed with B and U as 1 (R222). -/
def execPhp (s : State) : Host.Outcome State Fault Refusal :=
  toOutcome (stackInstr (opcodeOf .php) (fun t => push (pushedStatus t.p) t) s)

/-- PLA: A takes the pulled byte (R223). -/
def execPla (s : State) : Host.Outcome State Fault Refusal :=
  toOutcome (stackInstr (opcodeOf .pla) (fun t => do
    let (b, t) ← pull t
    .ok ((t.setA b).setZN b)) s)

/-- PLP: P takes the pulled byte with B as 0 and U as 1 (R224). -/
def execPlp (s : State) : Host.Outcome State Fault Refusal :=
  toOutcome (stackInstr (opcodeOf .plp) (fun t => do
    let (b, t) ← pull t
    .ok (t.setP (pulledStatus b))) s)

end Sys2Proof.Machine
end

