-- ==== Sys2Proof/Machine/System.lean ====
section
/-! DEFINITION. Flag, system and undefined instructions (46_flags_system.md R290 to R300). -/

namespace Sys2Proof.Machine

/-- CLC: C becomes 0 (R290). -/
def execClc (s : State) : Host.Outcome State Fault Refusal :=
  toOutcome (impliedInstr (opcodeOf .clc) (fun t => t.setFlag .C false) s)

/-- CLD: D becomes 0 (R291). -/
def execCld (s : State) : Host.Outcome State Fault Refusal :=
  toOutcome (impliedInstr (opcodeOf .cld) (fun t => t.setFlag .D false) s)

/-- CLI: I becomes 0 (R292). -/
def execCli (s : State) : Host.Outcome State Fault Refusal :=
  toOutcome (impliedInstr (opcodeOf .cli) (fun t => t.setFlag .I false) s)

/-- CLV: V becomes 0 (R293). -/
def execClv (s : State) : Host.Outcome State Fault Refusal :=
  toOutcome (impliedInstr (opcodeOf .clv) (fun t => t.setFlag .V false) s)

/-- SEC: C becomes 1 (R294). -/
def execSec (s : State) : Host.Outcome State Fault Refusal :=
  toOutcome (impliedInstr (opcodeOf .sec) (fun t => t.setFlag .C true) s)

/-- SED: D becomes 1 (R295). -/
def execSed (s : State) : Host.Outcome State Fault Refusal :=
  toOutcome (impliedInstr (opcodeOf .sed) (fun t => t.setFlag .D true) s)

/-- SEI: I becomes 1 (R296). -/
def execSei (s : State) : Host.Outcome State Fault Refusal :=
  toOutcome (impliedInstr (opcodeOf .sei) (fun t => t.setFlag .I true) s)

/-- NOP: nothing (R297). -/
def execNop (s : State) : Host.Outcome State Fault Refusal :=
  toOutcome (impliedInstr (opcodeOf .nop) (fun t => t) s)

/-- BRK: the entry through the IRQ vector, whatever I holds. Mode IMM leaves `addr_abs` at the padding byte (R298). -/
def execBrk (s : State) : Host.Outcome State Fault Refusal :=
  toOutcome (enterBrk ((s.setCycles (baseCycles (opcodeOf .brk))).setAddrAbs (s.pc - 1)))

/-- RTI: P and PC take the pulled bytes (R299). -/
def execRti (s : State) : Host.Outcome State Fault Refusal :=
  toOutcome (stackInstr (opcodeOf .rti) returnFromHandler s)

/-- An undefined opcode: a 1-byte no-op of UNDEF_CYCLES cycles, mode IMP (R300). -/
def execUndef (op : Byte) (s : State) : Host.Outcome State Fault Refusal :=
  toOutcome (.ok (impliedStart (s.undefCycles op) s))

end Sys2Proof.Machine
end

