-- ==== Sys2Proof/Machine/Cpu.lean ====
section
/-! DEFINITION. One CPU cycle: fetch, decode, execute, countdown (40_dispatch.md R171, R178). -/

namespace Sys2Proof.Machine

/-- The byte at PC, read through the bus, and PC moved past it (R132). -/
def fetchByte (s : State) : Run (Byte × State) := do
  let (b, s) ← busRead s.pc s
  .ok (b, s.setPc (s.pc + 1))

/-- The operand bytes of a form, read in order, and the instruction they make. BRK's padding byte is skipped and never read
(R131, R179). -/
def fetchForm (form : Form) (s : State) : Run (Instr × State) :=
  match form with
  | .implied i => .ok (i, s)
  | .padded i => .ok (i, s.setPc (s.pc + 1))
  | .byte f => do
    let (b, s) ← fetchByte s
    .ok (f b, s)
  | .word f => do
    let (lo, s) ← fetchByte s
    let (hi, s) ← fetchByte s
    .ok (f (wordOf lo hi), s)

/-- The fetch and decode of the instruction at PC: the opcode register takes the opcode, and PC ends past the instruction (R171, R180). -/
def fetchInstr (s : State) : Run (Instr × State) := do
  let (op, s) ← fetchByte s
  fetchForm (opcodeRow op).form (s.setOpcode op)

/-- The dispatch of the instruction at PC (R171). -/
def dispatch (s : State) : Run State := do
  let (i, s) ← fetchInstr s
  ofOutcome (exec i s)

/-- The dispatch a CPU cycle makes: only when the countdown is 0 (R171). -/
def dispatchIfDue (s : State) : Run State := if s.cycles = 0 then dispatch s else .ok s

/-- `CPU.clock()`: a dispatch when the countdown is 0, and the count in every call (R171). -/
def cpuClock (s : State) : Run State := do
  let s ← dispatchIfDue s
  .ok s.countDown

end Sys2Proof.Machine
end

