-- ==== Sys2Proof/Machine/Renderer.lean ====
section
/-! DEFINITION. The PPU's own cycle: the render step, vertical blank, pixel composition and the counters (60_exceptions.md R360 to
R403). The cartridge is only read. -/

namespace Sys2Proof.Machine

/-! ### Background pipeline -/

/-- A 16-bit shifter with its low byte replaced (R383). -/
def loadLow (r : BitVec 16) (b : Byte) : BitVec 16 := (r &&& 0xFF00) ||| b.setWidth 16

/-- `LoadBgShifters` (R383). -/
def loadBgShifters (q : Ppu) : Ppu :=
  { q with
    bgPatLo := loadLow q.bgPatLo q.ntLsb
    bgPatHi := loadLow q.bgPatHi q.ntMsb
    bgAttLo := loadLow q.bgAttLo (if q.ntAttr.getLsbD 0 then 0xFF else 0x00)
    bgAttHi := loadLow q.bgAttHi (if q.ntAttr.getLsbD 1 then 0xFF else 0x00) }

/-- The address of the nametable byte at `v` (R380). -/
def nametableAddr (v : BitVec 15) : Word := 0x2000 ||| (v.setWidth 16 &&& 0x0FFF)

/-- The address of the attribute byte at `v` (R381). -/
def attributeAddr (v : BitVec 15) : Word :=
  0x23C0 ||| ((BitVec.ofBool (nametableY v)).setWidth 16 <<< 11) ||| ((BitVec.ofBool (nametableX v)).setWidth 16 <<< 10)
    ||| (((coarseY v >>> 2).setWidth 16) <<< 3) ||| (coarseX v >>> 2).setWidth 16

/-- The palette number of the tile's quadrant in an attribute byte (R381). -/
def attributeQuadrant (v : BitVec 15) (b : Byte) : Byte :=
  let b := if (coarseY v).getLsbD 1 then b >>> 4 else b
  let b := if (coarseX v).getLsbD 1 then b >>> 2 else b
  b &&& 0x03

/-- The address of a background tile's pattern row, low plane; the high plane is 8 bytes later (R380, R382). -/
def backgroundPatternAddr (q : Ppu) : Word :=
  ((BitVec.ofBool q.patternBackground).setWidth 16 <<< 12) + (q.ntId.setWidth 16 <<< 4) + (fineY q.v).setWidth 16

/-- `IncrementX` (R385). -/
def incrementX (q : Ppu) : Ppu :=
  if q.rendering then
    if coarseX q.v = 31 then { q with v := withNametableX (withCoarseX q.v 0) (!nametableX q.v) }
    else { q with v := withCoarseX q.v (coarseX q.v + 1) }
  else q

/-- `IncrementY` (R386). -/
def incrementY (q : Ppu) : Ppu :=
  if q.rendering then
    if (fineY q.v).toNat < 7 then { q with v := withFineY q.v (fineY q.v + 1) }
    else
      let v := withFineY q.v 0
      if coarseY v = 29 then { q with v := withNametableY (withCoarseY v 0) (!nametableY v) }
      else if coarseY v = 31 then { q with v := withCoarseY v 0 }
      else { q with v := withCoarseY v (coarseY v + 1) }
  else q

/-- The horizontal transfer (R387). -/
def transferX (q : Ppu) : Ppu :=
  if q.rendering then { q with v := withCoarseX (withNametableX q.v (nametableX q.t)) (coarseX q.t) } else q

/-- The vertical transfer (R388). -/
def transferY (q : Ppu) : Ppu :=
  if q.rendering then
    { q with v := withCoarseY (withNametableY (withFineY q.v (fineY q.t)) (nametableY q.t)) (coarseY q.t) }
  else q

/-- `BackgroundFetch(k)` (R380). -/
def backgroundFetch (c : Cart) (k : Nat) (q : Ppu) : Run Ppu :=
  match k with
  | 0 => do
    let q := loadBgShifters q
    let b ← ppuRead c q (nametableAddr q.v)
    .ok { q with ntId := b }
  | 2 => do
    let b ← ppuRead c q (attributeAddr q.v)
    .ok { q with ntAttr := attributeQuadrant q.v b }
  | 4 => do
    let b ← ppuRead c q (backgroundPatternAddr q)
    .ok { q with ntLsb := b }
  | 6 => do
    let b ← ppuRead c q (backgroundPatternAddr q + 8)
    .ok { q with ntMsb := b }
  | 7 => .ok (incrementX q)
  | _ => .ok q

/-! ### Sprite pipeline -/

/-- The first `n` elements of a list replaced by `f`. -/
def mapFirst {α : Type} (f : α → α) : Nat → List α → List α
  | n + 1, x :: l => f x :: mapFirst f n l
  | _, l => l

/-- One sprite's counter or shifter moved on (R384). -/
def SpriteSlot.shift (s : SpriteSlot) : SpriteSlot :=
  if 0 < s.x.toNat then { s with x := s.x - 1 } else { s with patLo := s.patLo <<< 1, patHi := s.patHi <<< 1 }

/-- The background part of `UpdateShifters` (R384). -/
def shiftBackground (q : Ppu) : Ppu :=
  if q.renderBackground then
    { q with bgPatLo := q.bgPatLo <<< 1, bgPatHi := q.bgPatHi <<< 1, bgAttLo := q.bgAttLo <<< 1, bgAttHi := q.bgAttHi <<< 1 }
  else q

/-- The sprite part of `UpdateShifters` (R384). -/
def shiftSprites (q : Ppu) : Ppu :=
  if q.renderSprites ∧ 1 ≤ q.cycle ∧ q.cycle ≤ 257 then { q with spr := mapFirst SpriteSlot.shift q.sprCount.val q.spr } else q

/-- `UpdateShifters` (R384). -/
def updateShifters (q : Ppu) : Ppu := shiftSprites (shiftBackground q)

/-- The height of a sprite (R390). -/
def Ppu.spriteHeight (q : Ppu) : Int := if q.tallSprites then 16 else 8

/-- OAM entry `n` as a slot with empty shifters (R40, R390). -/
def oamSlot (oam : Memory) (n : Nat) : SpriteSlot :=
  { y := oam.read (4 * n), id := oam.read (4 * n + 1), attr := oam.read (4 * n + 2), x := oam.read (4 * n + 3), patLo := 0, patHi := 0 }

/-- `0 <= scanline - OAM[4n] < h`: sprite `n` is in range (R390). -/
def spriteInRange (q : Ppu) (n : Nat) : Bool :=
  let diff : Int := q.scanline - (q.oam.read (4 * n)).toNat
  decide (0 ≤ diff) && decide (diff < q.spriteHeight)

/-- What the scan of sprite evaluation has found: the number of matches, the selected sprites in order, and whether sprite 0 is one
of them (R390). -/
structure Evaluation where
  matched : Nat
  slots : List SpriteSlot
  zero : Bool
deriving DecidableEq, Repr

/-- The scan of R390 from sprite `n`, with `fuel` sprites left: it stops at the ninth match. -/
def evaluateFrom (q : Ppu) : Nat → Nat → Evaluation → Evaluation
  | 0, _, e => e
  | fuel + 1, n, e =>
    if 9 ≤ e.matched then e
    else if spriteInRange q n then
      if e.matched < 8 then
        evaluateFrom q fuel (n + 1) { matched := e.matched + 1, slots := e.slots ++ [oamSlot q.oam n], zero := e.zero || n == 0 }
      else evaluateFrom q fuel (n + 1) { e with matched := e.matched + 1 }
    else evaluateFrom q fuel (n + 1) e

/-- The scan over all 64 sprites. -/
def evaluateScan (q : Ppu) : Evaluation := evaluateFrom q 64 0 { matched := 0, slots := [], zero := false }

/-- Eight slots, the given ones first and empty ones after them. -/
def eightSlots (l : List SpriteSlot) : List SpriteSlot := (l ++ List.replicate 8 SpriteSlot.empty).take 8

/-- A count of at most 8. -/
def capEight (n : Nat) : Fin 9 := ⟨min n 8, by omega⟩

/-- `SpriteEvaluate` (R390, R391). -/
def spriteEvaluate (q : Ppu) : Ppu :=
  let e := evaluateScan q
  { q with
    spr := eightSlots e.slots
    sprCount := capEight e.matched
    spr0Possible := e.zero
    status := setBit q.status overflowBit (decide (9 ≤ e.matched)) }

/-- The bits of a byte in reverse order (R392). -/
def reverse8 (b : Byte) : Byte :=
  BitVec.ofBool (b.getLsbD 0) ++ BitVec.ofBool (b.getLsbD 1) ++ BitVec.ofBool (b.getLsbD 2) ++ BitVec.ofBool (b.getLsbD 3) ++
    BitVec.ofBool (b.getLsbD 4) ++ BitVec.ofBool (b.getLsbD 5) ++ BitVec.ofBool (b.getLsbD 6) ++ BitVec.ofBool (b.getLsbD 7)

/-- A row number as an address part, or the free value where the formula of R392 gives no natural number (log 8). -/
def rowBits (d row : Int) : Word := if 0 ≤ row then BitVec.ofInt 16 row else Config.freeSpriteRow d

/-- The address of a selected sprite's pattern row, low plane, for the distance `d` from the scanline (R392). -/
def spritePatternAddr (q : Ppu) (s : SpriteSlot) (d : Int) : Word :=
  let vflip := s.attr.getLsbD 7
  let row : Int := if vflip then 7 - d else d
  if q.tallSprites then
    let bottom := if vflip then !decide (8 ≤ d) else decide (8 ≤ d)
    let tile : Byte := (s.id &&& 0xFE) + (if bottom then 1 else 0)
    ((s.id &&& 0x01).setWidth 16 <<< 12) ||| (tile.setWidth 16 <<< 4) ||| BitVec.ofInt 16 (row % 8)
  else
    ((BitVec.ofBool q.patternSprite).setWidth 16 <<< 12) ||| (s.id.setWidth 16 <<< 4) ||| rowBits d row

/-- The pattern fetch of one selected sprite (R392). -/
def fetchSprite (c : Cart) (q : Ppu) (s : SpriteSlot) : Run SpriteSlot := do
  let a := spritePatternAddr q s (q.scanline - s.y.toNat)
  let lo ← ppuRead c q a
  let hi ← ppuRead c q (a + 8)
  if s.attr.getLsbD 6 then .ok { s with patLo := reverse8 lo, patHi := reverse8 hi } else .ok { s with patLo := lo, patHi := hi }

/-- The pattern fetches of the first `n` slots, in order. -/
def fetchSprites (c : Cart) (q : Ppu) : Nat → List SpriteSlot → Run (List SpriteSlot)
  | n + 1, s :: l => do
    let s ← fetchSprite c q s
    let l ← fetchSprites c q n l
    .ok (s :: l)
  | _, l => .ok l

/-- `SpriteFetch` (R392). -/
def spriteFetch (c : Cart) (q : Ppu) : Run Ppu := do
  let l ← fetchSprites c q q.sprCount.val q.spr
  .ok { q with spr := l }

/-! ### The render step -/

/-- `PreRenderClear` (R370). -/
def preRenderClear (q : Ppu) : Ppu :=
  { ((q.setStatusBit vblankBit false).setStatusBit zeroHitBit false).setStatusBit overflowBit false with
    spr := q.spr.map (fun s => { s with patLo := 0, patHi := 0 })
    sprCount := 0 }

/-- The odd-frame skip: the rest of the cycle acts as cycle 1 (R361). -/
def oddFrameSkip (q : Ppu) : Ppu :=
  if q.scanline = 0 ∧ q.cycle = 0 ∧ q.oddFrame ∧ q.rendering then { q with cycle := 1 } else q

/-- The cycles in which the shifters move and tiles are fetched (R361). -/
def inFetchWindow (cycle : Nat) : Bool :=
  (decide (2 ≤ cycle) && decide (cycle ≤ 257)) || (decide (321 ≤ cycle) && decide (cycle ≤ 337))

/-- The pre-render clear at its place (R361). -/
def renderClear (q : Ppu) : Ppu := if q.scanline = -1 ∧ q.cycle = 1 then preRenderClear q else q

/-- The shifts and the tile fetch of a cycle (R361). -/
def renderTile (c : Cart) (q : Ppu) : Run Ppu :=
  if inFetchWindow q.cycle then backgroundFetch c ((q.cycle - 1) % 8) (updateShifters q) else .ok q

/-- The scroll updates at cycles 256 and 257 (R361). -/
def renderScroll (q : Ppu) : Ppu :=
  if q.cycle = 256 then incrementY q else if q.cycle = 257 then transferX (loadBgShifters q) else q

/-- The unused nametable fetches (R361). -/
def renderUnused (c : Cart) (q : Ppu) : Run Ppu :=
  if q.cycle = 338 ∨ q.cycle = 340 then do
    let b ← ppuRead c q (nametableAddr q.v)
    .ok { q with ntId := b }
  else .ok q

/-- The vertical transfers of the pre-render line (R361). -/
def renderVertical (q : Ppu) : Ppu := if q.scanline = -1 ∧ 280 ≤ q.cycle ∧ q.cycle ≤ 304 then transferY q else q

/-- The sprite work of a cycle (R361). -/
def renderSpriteWork (c : Cart) (q : Ppu) : Run Ppu :=
  if q.cycle = 257 ∧ 0 ≤ q.scanline then .ok (spriteEvaluate q) else if q.cycle = 340 then spriteFetch c q else .ok q

/-- `RenderStep` (R361). -/
def renderStep (c : Cart) (q : Ppu) : Run Ppu := do
  let q ← renderTile c (renderClear (oddFrameSkip q))
  let q ← renderUnused c (renderScroll q)
  renderSpriteWork c (renderVertical q)

/-- `VBlankStart` (R371). -/
def vblankStart (q : Ppu) : Ppu :=
  { q.setStatusBit vblankBit true with nmiReq := q.nmiReq || q.enableNmi }

/-! ### Pixel composition -/

/-- A 2-bit pixel from its two planes. -/
def twoBits (hi lo : Bool) : BitVec 2 := BitVec.ofBool hi ++ BitVec.ofBool lo

/-- `BackgroundPixel`: the pixel and its palette (R401). -/
def backgroundPixel (q : Ppu) : BitVec 2 × BitVec 3 :=
  if q.renderBackground ∧ (q.backgroundLeft ∨ 9 ≤ q.cycle) then
    let mux : BitVec 16 := 0x8000 >>> q.fineX.toNat
    (twoBits ((q.bgPatHi &&& mux) != 0) ((q.bgPatLo &&& mux) != 0),
      (twoBits ((q.bgAttHi &&& mux) != 0) ((q.bgAttLo &&& mux) != 0)).setWidth 3)
  else (0, 0)

/-- A foreground pixel: its value, its palette, whether it is in front of the background, and whether it is sprite 0's. -/
structure Foreground where
  pixel : BitVec 2
  palette : BitVec 3
  front : Bool
  zero : Bool
deriving DecidableEq, Repr

/-- The first of the slots whose counter is 0 and whose pixel is not 0; slot `i` is the first of the list (R401). Where there is
none the pixel is 0, and its palette and priority are read by no rule (log 16). -/
def foregroundFrom : Nat → Nat → List SpriteSlot → Foreground
  | n + 1, i, s :: l =>
    let fp := twoBits (s.patHi.getLsbD 7) (s.patLo.getLsbD 7)
    if s.x = 0 ∧ fp ≠ 0 then
      { pixel := fp, palette := (s.attr &&& 0x03).setWidth 3 + 4, front := !s.attr.getLsbD 5, zero := i == 0 }
    else foregroundFrom n (i + 1) l
  | _, _, _ => { pixel := 0, palette := 0, front := false, zero := false }

/-- Whether sprites are shown in this cycle (R401). -/
def Ppu.spritesShown (q : Ppu) : Bool := q.renderSprites && (q.spritesLeft || decide (9 ≤ q.cycle))

/-- `ForegroundPixel`; `spr0_rendering` is written only where sprites are shown (R401). -/
def foregroundPixel (q : Ppu) : Foreground × Ppu :=
  if q.spritesShown then
    let f := foregroundFrom q.sprCount.val 0 q.spr
    (f, { q with spr0Rendering := f.zero })
  else ({ pixel := 0, palette := 0, front := false, zero := false }, q)

/-- Whether both pixels opaque at this cycle make a sprite-zero hit (R402). -/
def zeroHit (q : Ppu) : Bool :=
  q.spr0Possible && q.spr0Rendering && q.renderBackground && q.renderSprites &&
    decide ((if q.backgroundLeft && q.spritesLeft then 1 else 9) ≤ q.cycle) && decide (q.cycle ≤ 257)

/-- `Priority`: the pixel and palette shown, and the PPU after the hit test (R402). -/
def priority (b : BitVec 2 × BitVec 3) (f : Foreground) (q : Ppu) : (BitVec 2 × BitVec 3) × Ppu :=
  if b.1 = 0 ∧ f.pixel = 0 then ((0, 0), q)
  else if b.1 = 0 then ((f.pixel, f.palette), q)
  else if f.pixel = 0 then (b, q)
  else (if f.front then (f.pixel, f.palette) else b, if zeroHit q then q.setStatusBit zeroHitBit true else q)

/-- The address of a palette entry: `0x3F00 + palette * 4 + pixel` (R403). -/
def paletteAddr (r : BitVec 2 × BitVec 3) : Word := 0x3F00 + (r.2.setWidth 16 <<< 2) + r.1.setWidth 16

/-- `ComposePixel`; the `set_pixel` call is held as the PPU's last pixel (R400, R403). -/
def composePixel (c : Cart) (q : Ppu) : Run Ppu := do
  let b := backgroundPixel q
  let (f, q) := foregroundPixel q
  let (r, q) := priority b f q
  let ci ← ppuRead c q (paletteAddr r)
  .ok { q with pixel := some { x := (q.cycle : Int) - 1, y := q.scanline, colourIndex := ci.setWidth 6, emphasis := q.mask.extractLsb' 5 3 } }

/-! ### The cycle -/

/-- `Advance` (R362). -/
def advance (q : Ppu) : Ppu :=
  if q.cycle + 1 = 341 then
    if q.scanline + 1 = 261 then { q with cycle := 0, scanline := -1, frameComplete := true, oddFrame := !q.oddFrame }
    else { q with cycle := 0, scanline := q.scanline + 1 }
  else { q with cycle := q.cycle + 1 }

/-- The render step on the lines that have one (R360). -/
def renderLine (c : Cart) (q : Ppu) : Run Ppu := if -1 ≤ q.scanline ∧ q.scanline ≤ 239 then renderStep c q else .ok q

/-- The start of vertical blank at its place (R360). -/
def vblankLine (q : Ppu) : Ppu := if q.scanline = 241 ∧ q.cycle = 1 then vblankStart q else q

/-- `PPU.clock()` (R360). -/
def ppuClock (c : Cart) (q : Ppu) : Run Ppu := do
  let q ← renderLine c q
  let q ← composePixel c (vblankLine q)
  .ok (advance q)

end Sys2Proof.Machine
end

