-- ==== Sys2Proof/Machine/Clock.lean ====
section
/-! DEFINITION. The Bus: one OAM DMA slot, one master step, the resets, the launch and the host's calls (60_exceptions.md R330 to
R343, R440 to R442; 70_reset_and_hazards.md R450 to R456). -/

namespace Sys2Proof.Machine

/-! ### OAM DMA -/

/-- Whether `M` has the parity of DMA read slots (R340). -/
def State.readParity (s : State) : Bool := (s.master % 2 == 1) == s.params.dmaReadOdd

/-- The source address of the pending byte (R340). -/
def Dma.source (d : Dma) : Word := wordOf d.offset d.page

/-- The write half of a transfer: the pending byte goes straight into OAM, and the transfer ends when the offset wraps (R340, R342). -/
def dmaWrite (s : State) : State :=
  let s' := s.setPpu { s.ppu with oam := s.ppu.oam.write s.dma.offset.toNat s.dma.data }
  s'.setDma { s.dma with offset := s.dma.offset + 1, active := s.dma.active && s.dma.offset + 1 != 0 }

/-- `DmaStep()` (R340). -/
def dmaStep (s : State) : Run State :=
  if s.dma.align then .ok (if s.readParity then s else s.setDma { s.dma with align := false })
  else if s.readParity then do
    let (b, s) ← busRead s.dma.source s
    .ok (s.setDma { s.dma with data := b })
  else .ok (dmaWrite s)

/-! ### Master clock -/

/-- The host's scheduled IRQ call, made just before its master step (R441). -/
def scheduledIrq (s : State) : Run State := if s.irqEvents.contains s.master then cpuIrq s else .ok s

/-- The PPU's part of a master step. -/
def ppuPart (s : State) : Run State := do
  let q ← ppuClock s.cart s.ppu
  .ok (s.setPpu q)

/-- The CPU slot of a master step: one in three, taken by DMA while a transfer runs (R330, R331). -/
def slotPart (s : State) : Run State :=
  if s.master % 3 = 0 then (if s.dma.active then dmaStep s else cpuClock s) else .ok s

/-- NMI delivery at the end of a master step (R333). -/
def nmiPart (s : State) : Run State :=
  if s.ppu.nmiReq then cpuNmi (s.setPpu { s.ppu with nmiReq := false }) else .ok s

/-- `Bus.clock()` (R330). -/
def busClock (s : State) : Run State := do
  let s ← ppuPart s
  let s ← slotPart s
  let s ← nmiPart s
  .ok (s.setMaster (s.master + 1))

/-- One master step with the host's scheduled IRQ call before it (R441, log 13). -/
def masterStep (s : State) : Run State := do
  let s ← scheduledIrq s
  busClock s

/-! ### Reset -/

/-- The cartridge's reset: the mapper's register becomes 0 (R453). -/
def cartReset (c : Cart) : Cart :=
  match c.mapper with
  | .nrom => c
  | .cnrom _ => { c with mapper := .cnrom 0 }

/-- `CPU.reset()` (R451). -/
def cpuReset (s : State) : Run State := do
  let (w, s) ← readPair resetVector (resetVector + 1) s
  .ok { s with
    pc := w, sp := 0xFD, a := 0, x := 0, y := 0, p := 0x20
    opcode := 0, addrAbs := 0, addrRel := 0, fetched := 0, cycles := 8 }

/-- `PPU.reset()`: every register, latch, shifter, flag and counter; the memories keep their contents (R452), and so does the last
pixel given to the host (log 9). -/
def ppuReset (q : Ppu) : Ppu :=
  { Ppu.reset with nt0 := q.nt0, nt1 := q.nt1, pt0 := q.pt0, pt1 := q.pt1, pal := q.pal, oam := q.oam, pixel := q.pixel }

/-- `Bus.reset()` (R450); the count of resets is the model's own (log 3). -/
def busReset (s : State) : Run State := do
  let s ← cpuReset (s.setCart (cartReset s.cart))
  .ok ((((s.setPpu (ppuReset s.ppu)).setMaster 0).setDma Dma.reset).setResets (s.resets + 1))

/-- What a system is constructed from: the loader's cartridge, the power-on memories and the run's parameters (00_scope.md R10). -/
structure LaunchParams where
  prg : Memory
  prgBanks : Nat
  chr : Memory
  chrBanks : Nat
  mirroring : Mirroring
  mapperId : Byte
  ramInit : Memory
  nt0Init : Memory
  nt1Init : Memory
  pt0Init : Memory
  pt1Init : Memory
  palInit : Memory
  oamInit : Memory
  params : Params
  irqEvents : List Nat
deriving DecidableEq, Repr

/-- The cartridge the parameters describe (R16, R117). -/
def LaunchParams.cart (l : LaunchParams) : Cart :=
  { prg := l.prg, prgBanks := l.prgBanks, chr := l.chr, chrBanks := l.chrBanks, mirroring := l.mirroring
    mapper := Mapper.ofId l.mapperId }

/-- There is a program bank, every memory's contents lie within its length, and CHR is one all-zero bank where no character bank is
declared (R10, R16; 93_implementation_defined.md row 4). -/
def LaunchParams.ok (l : LaunchParams) : Bool :=
  decide (1 ≤ l.prgBanks) && (decide (1 ≤ l.chrBanks) || l.chr.isEmpty) && l.prg.wf (16384 * l.prgBanks) && l.chr.wf (8192 * max 1 l.chrBanks) && l.ramInit.wf 2048 &&
    l.nt0Init.wf 1024 && l.nt1Init.wf 1024 && l.pt0Init.wf 4096 && l.pt1Init.wf 4096 && l.palInit.wf 32 && l.oamInit.wf 256

/-- The constructed system before its first reset (R454). The reset writes every register, so the values here are read by nothing
(log 19). -/
def LaunchParams.construct (l : LaunchParams) : State :=
  { State.reset with
    ram := l.ramInit, cart := l.cart, params := l.params, irqEvents := l.irqEvents, resets := 0
    ppu := { Ppu.reset with
      nt0 := l.nt0Init, nt1 := l.nt1Init, pt0 := l.pt0Init, pt1 := l.pt1Init, pal := l.palInit, oam := l.oamInit } }

/-- The launch state: `Bus.reset()` of the constructed system, or a refusal of parameters that describe no system (R454). -/
def launch (l : LaunchParams) : Run State :=
  if l.ok then busReset l.construct else .error (.refused .badLaunch)

/-- The parameters State.reset is the launch of: the unloaded cartridge and power-on memories of zeros (log 1, log 2). -/
def LaunchParams.default : LaunchParams :=
  { prg := [], prgBanks := 1, chr := [], chrBanks := 0, mirroring := .horizontal, mapperId := 0
    ramInit := [], nt0Init := [], nt1Init := [], pt0Init := [], pt1Init := [], palInit := [], oamInit := []
    params := Params.default, irqEvents := [] }

/-! ### The host's calls -/

/-- What a host may call between two master steps (R440 to R442): a master step, a reset, an IRQ, and the clearing of
`frame_complete` when it presents the frame. -/
inductive HostCall where
  | clock
  | reset
  | irq
  | presentFrame
deriving DecidableEq, Repr

/-- The effect of a host call. -/
def hostCall (c : HostCall) (s : State) : Run State :=
  match c with
  | .clock => masterStep s
  | .reset => busReset s
  | .irq => cpuIrq s
  | .presentFrame => .ok (s.setPpu { s.ppu with frameComplete := false })

/-! ### Placing an instruction where the next step fetches it -/

/-- Whether a byte written at a CPU address by the loader is the byte a fetch reads there: RAM or PRG. -/
def placeable (c : Cart) (a : Word) : Bool :=
  decide (a.toNat ≤ 0x1FFF) || (decide (0x8000 ≤ a.toNat) && decide (prgOffset c a < c.prgLen))

/-- A byte put into RAM or PRG at a CPU address, as a loader does: no device and no mapper register sees it. -/
def placeByte (a : Word) (b : Byte) (s : State) : State :=
  if a.toNat ≤ 0x1FFF then s.setRam (s.ram.write (ramIndex a) b)
  else if 0x8000 ≤ a.toNat then s.setCart { s.cart with prg := s.cart.prg.write (prgOffset s.cart a) b }
  else s

/-- Where the next instruction is placed: PC if three bytes can be placed there, else 0x0000 (log 18). -/
def placeAt (s : State) : Word :=
  if placeable s.cart s.pc && placeable s.cart (s.pc + 1) && placeable s.cart (s.pc + 2) then s.pc else 0x0000

/-- The state in which the next master step dispatches at PC: a CPU slot, no countdown, no DMA, no IRQ call in it. -/
def readyToDispatch (s : State) : State :=
  let m := s.master - s.master % 3
  { s with master := m, cycles := 0, dma := { s.dma with active := false }, irqEvents := s.irqEvents.filter (fun e => e != m) }

/-- Three bytes placed where the next step fetches. -/
def placeInstr (b0 b1 b2 : Byte) (s : State) : State :=
  let a := placeAt s
  placeByte (a + 2) b2 (placeByte (a + 1) b1 (placeByte a b0 ((readyToDispatch s).setPc a)))

end Sys2Proof.Machine
end

