-- ==== Sys2Proof/Machine/Step.lean ====
section
/-! DEFINITION. The step: one master step of the machine; and the placing of an instruction where the next step fetches it. -/

namespace Sys2Proof.Machine

/-- One master step (60_exceptions.md R330, with R441's call before it). -/
def step (s : State) : Host.Outcome State Fault Refusal := toOutcome (masterStep s)

/-- `s` with the instruction whose bytes are the bits of `w` placed where `step` fetches its next instruction, so that the next step
dispatches it (log 18). -/
def State.withFetchWord (s : State) (nbits w : Nat) : State :=
  match tableBytes nbits w with
  | [b0, b1, b2] => placeInstr b0 b1 b2 s
  | _ => s

end Sys2Proof.Machine
end

