-- ==== Sys2Proof/Safety.lean ====
section
/-! DEFINITION. The terms claims are stated in: the invariant of the state between master steps, when a cartridge access cannot stop the
machine, and the location an address names. -/

namespace Sys2Proof.Machine

/-- The PPU between two master steps: its counters in their ranges (R38), eight sprite slots (R37), a 2-bit palette number in
`nt_attr` (R36), the low status bits never stored (R32), no undelivered NMI request (R333), memories in canonical form (R39). -/
structure Ppu.Inv (q : Ppu) : Prop where
  scanlineLow : -1 ≤ q.scanline
  scanlineHigh : q.scanline ≤ 260
  cycleHigh : q.cycle ≤ 340
  slots : q.spr.length = 8
  attr : q.ntAttr.toNat < 4
  statusLow : q.status &&& 0x1F = 0
  nmi : q.nmiReq = false
  nt0 : q.nt0.wf 1024 = true
  nt1 : q.nt1.wf 1024 = true
  pt0 : q.pt0.wf 4096 = true
  pt1 : q.pt1.wf 4096 = true
  pal : q.pal.wf 32 = true
  oam : q.oam.wf 256 = true

/-- The DMA state between two master steps: with no transfer running, no alignment wait and offset 0 (R340). -/
def Dma.Inv (d : Dma) : Prop := d.active = false → d.align = false ∧ d.offset = 0

/-- The state between two master steps: U is 1 and B is 0 in P (R24), the countdown is at most 8 (R175), every memory is in canonical
form and within its length, and the PPU and DMA invariants hold. -/
structure State.Inv (s : State) : Prop where
  unused : s.flag .U = true
  broken : s.flag .B = false
  countdown : s.cycles ≤ 8
  ram : s.ram.wf 2048 = true
  prg : s.cart.prg.wf s.cart.prgLen = true
  chr : s.cart.chr.wf s.cart.chrLen = true
  dma : s.dma.Inv
  ppu : s.ppu.Inv

/-- No cartridge access of this cartridge can be out of range: there is a program bank, and a CNROM bank number names a bank that is
there (R116; 00_scope.md R10). -/
def Cart.inRange (c : Cart) : Prop :=
  1 ≤ c.prgBanks ∧ match c.mapper with
    | .nrom => True
    | .cnrom bank => bank.toNat < max 1 c.chrBanks

/-- No cartridge access can become out of range: NROM, or CNROM with all four banks (R116). -/
def Cart.neverFaults (c : Cart) : Prop :=
  1 ≤ c.prgBanks ∧ (c.mapper = .nrom ∨ 4 ≤ c.chrBanks)

/-- What a CPU address names after mirroring and translation (20_memory.md R77, R120). -/
inductive Location where
  | ram (i : Nat)
  | port (p : PpuPort)
  | dmaTrigger
  | pad (i : Fin 2)
  | openBus
  | prg (off : Nat)
deriving DecidableEq, Repr

/-- The location of a CPU address (R77, R82, R83, R112). -/
def locate (c : Cart) (a : Word) : Location :=
  if 0x8000 ≤ a.toNat then .prg (prgOffset c a)
  else if a.toNat ≤ 0x1FFF then .ram (ramIndex a)
  else if a.toNat ≤ 0x3FFF then .port (portOf a)
  else if a = 0x4014 then .dmaTrigger
  else if a = 0x4016 then .pad 0
  else if a = 0x4017 then .pad 1
  else .openBus

/-- The byte a CPU read of an address with no device returns, without making the read: RAM, PRG in its length, or open bus; none for a
PPU port, a controller port, or an offset that stops the machine (R80, R88, R116). -/
def peek (s : State) (a : Word) : Option Byte :=
  match locate s.cart a with
  | .ram i => some (s.ram.read i)
  | .prg off => if off < s.cart.prgLen then some (s.cart.prg.read off) else none
  | .dmaTrigger => some 0x00
  | .openBus => some 0x00
  | .port _ => none
  | .pad _ => none

/-! ### Addresses -/

/-- The RAM offset of a stack byte (R220). -/
def stackIndex (sp : Byte) : Nat := 0x100 + sp.toNat

/-- The pointer two page-0 bytes hold, the second one within the page (R143, R144). -/
def ramPointer (m : Memory) (z : Byte) : Word := wordOf (m.read z.toNat) (m.read (z + 1).toNat)

/-- The effective address and the extra-cycle signal of a mode, in closed form (R135 to R144). -/
def addrOf (m : Addr) (s : State) : Word × Bool :=
  match m with
  | .zp0 z => (zeroPage z, false)
  | .zpx z => (zeroPage (z + s.x), false)
  | .zpy z => (zeroPage (z + s.y), false)
  | .abs w => (w, false)
  | .abx w => indexed w s.x
  | .aby w => indexed w s.y
  | .izx z => (ramPointer s.ram (z + s.x), false)
  | .izy z => indexed (ramPointer s.ram z) s.y

/-- The two bytes of PRG at two addresses of the mapper's range (R112). -/
def prgWord (c : Cart) (lo hi : Word) : Word := wordOf (c.prg.read (prgOffset c lo)) (c.prg.read (prgOffset c hi))

/-- The RAM after the three pushes of an entry: PC high, PC low, the status byte (R225). -/
def framePushed (s : State) (pushed : Byte) : Memory :=
  ((s.ram.write (stackIndex s.sp) (highByte s.pc)).write (stackIndex (s.sp - 1)) (lowByte s.pc)).write
    (stackIndex (s.sp - 2)) pushed

end Sys2Proof.Machine
end

