-- ==== Sys2Proof/Certificates/Slice0/Obligations.lean ====
section
/-! DEFINITION. The statements for the provers, and before them the few terms of their own that they use. -/

namespace Sys2Proof.Claims

open Sys2Proof.Machine

/-! ### Terms -/

/-- Each listed instruction has the listed opcode, and that opcode the listed base cycle count (30_encoding.md R147, R148). -/
def EncodingsAre (l : List (Instr × Byte × Nat)) : Prop :=
  ∀ e ∈ l, opcodeOf e.1 = e.2.1 ∧ baseCycles e.2.1 = e.2.2

/-- `p'` is `p` with exactly the listed flags written, each with the listed value. -/
def FlagsWritten (p p' : Byte) (l : List (Flag × Bool)) : Prop :=
  ∀ f, flagOf p' f = (l.lookup f).getD (flagOf p f)

/-- The flags `setZN(v)` writes (00_scope.md R13). -/
def zn (v : Byte) : List (Flag × Bool) := [(.Z, v == 0), (.N, v.getLsbD 7)]

/-- The flags `Compare(r, m)` writes (43_arith_logic.md R237). -/
def comparison (r m : Byte) : List (Flag × Bool) :=
  [(.C, decide (m.toNat ≤ r.toNat)), (.Z, r == m), (.N, (r - m).getLsbD 7)]

/-- The CPU registers a program names, beside P and PC. -/
inductive Reg where
  | A | X | Y | SP
deriving DecidableEq, Repr

/-- The value of a register. -/
def regOf (s : State) : Reg → Byte
  | .A => s.a
  | .X => s.x
  | .Y => s.y
  | .SP => s.sp

/-- `t` has `s`'s A, X, Y, SP, PC and P. -/
def SameRegisters (s t : State) : Prop :=
  t.a = s.a ∧ t.x = s.x ∧ t.y = s.y ∧ t.sp = s.sp ∧ t.pc = s.pc ∧ t.p = s.p

/-- The mode of an operand in memory. -/
def memPart : Operand → Option Addr
  | .imm _ => none
  | .mem m => some m

/-- The memory operand an instruction reads (30_encoding.md R145). -/
def readMode : Instr → Option Addr
  | .lda m | .adc m | .sbc m | .and m | .ora m | .eor m | .cmp m => memPart (srcOperand m)
  | .ldx m => memPart (ldxOperand m)
  | .ldy m => memPart (ldyOperand m)
  | .cpx m | .cpy m => memPart (cpOperand m)
  | .bit m => memPart (bitOperand m)
  | .inc m | .dec m => some (rmwAddr m)
  | .asl (.mem m) | .lsr (.mem m) | .rol (.mem m) | .ror (.mem m) => some (rmwAddr m)
  | _ => none

/-- The memory destination an instruction stores to. -/
def storeMode : Instr → Option Addr
  | .sta m => some (staAddr m)
  | .stx m => some (stxAddr m)
  | .sty m => some (styAddr m)
  | .inc m | .dec m => some (rmwAddr m)
  | .asl (.mem m) | .lsr (.mem m) | .rol (.mem m) | .ror (.mem m) => some (rmwAddr m)
  | _ => none

/-- The bus addresses an instruction writes, its stack bytes included (40_dispatch.md R179). -/
def storedTo (i : Instr) (s : State) : List Word :=
  match i with
  | .pha | .php => [stackAddr s.sp]
  | .jsr _ => [stackAddr s.sp, stackAddr (s.sp - 1)]
  | .brk => [stackAddr s.sp, stackAddr (s.sp - 1), stackAddr (s.sp - 2)]
  | i => match storeMode i with
    | some m => [(addrOf m s).1]
    | none => []

/-- Where JMP indirect reads the high byte of its target (30_encoding.md R142). -/
def pointerHigh (w : Word) : Word := if lowByte w = 0xFF then w &&& 0xFF00 else w + 1

/-- The bus addresses an instruction reads data or a jump pointer from, its stack, vector and zero-page pointer reads left out: those
are RAM and PRG. -/
def readFrom (i : Instr) (s : State) : List Word :=
  match i with
  | .jmp (.ind w) => [w, pointerHigh w]
  | i => match readMode i with
    | some m => [(addrOf m s).1]
    | none => []

/-- The registers an instruction writes, SP of the stack instructions included (files 41 to 46). -/
def destRegs : Instr → List Reg
  | .lda _ | .txa | .tya | .adc _ | .sbc _ | .and _ | .ora _ | .eor _ => [.A]
  | .asl .acc | .lsr .acc | .rol .acc | .ror .acc => [.A]
  | .ldx _ | .tax | .tsx | .inx | .dex => [.X]
  | .ldy _ | .tay | .iny | .dey => [.Y]
  | .txs | .pha | .php | .plp | .jsr _ | .rts | .brk | .rti => [.SP]
  | .pla => [.A, .SP]
  | _ => []

/-- The flags an instruction writes (the Flags line of each rule of files 41 to 46). -/
def destFlags : Instr → List Flag
  | .lda _ | .ldx _ | .ldy _ | .tax | .tay | .txa | .tya | .tsx | .pla => [.Z, .N]
  | .and _ | .ora _ | .eor _ | .inc _ | .dec _ | .inx | .iny | .dex | .dey => [.Z, .N]
  | .adc _ | .sbc _ => [.C, .V, .Z, .N]
  | .bit _ => [.Z, .V, .N]
  | .cmp _ | .cpx _ | .cpy _ | .asl _ | .lsr _ | .rol _ | .ror _ => [.C, .Z, .N]
  | .plp | .rti => [.C, .Z, .I, .D, .B, .U, .V, .N]
  | .clc | .sec => [.C]
  | .cld | .sed => [.D]
  | .cli | .sei => [.I]
  | .clv => [.V]
  | .brk => [.I, .B]
  | _ => []

/-- The instructions that write PC themselves (45_control_transfer.md, 46_flags_system.md R298, R299). -/
def writesPc : Instr → Bool
  | .jmp _ | .jsr _ | .rts | .brk | .rti => true
  | .bcc _ | .bcs _ | .beq _ | .bmi _ | .bne _ | .bpl _ | .bvc _ | .bvs _ => true
  | _ => false

/-- The nine operations whose extra-cycle signal is 1 (40_dispatch.md R173). -/
def asksExtra : Instr → Bool
  | .adc _ | .and _ | .cmp _ | .eor _ | .lda _ | .ldx _ | .ldy _ | .ora _ | .sbc _ => true
  | _ => false

/-- The extra-cycle signal of a mode: 1 only for ABX, ABY and IZY, when the indexed address is in another page than its base
(40_dispatch.md R173). -/
def leavesPage (s : State) : Addr → Bool
  | .abx w => decide ((w + s.x.zeroExtend 16) &&& 0xFF00 ≠ w &&& 0xFF00)
  | .aby w => decide ((w + s.y.zeroExtend 16) &&& 0xFF00 ≠ w &&& 0xFF00)
  | .izy z => decide ((ramPointer s.ram z + s.y.zeroExtend 16) &&& 0xFF00 ≠ ramPointer s.ram z &&& 0xFF00)
  | _ => false

/-- A branch's displacement, its flag, and the value of the flag that takes it (45_control_transfer.md R274 to R281). -/
def branchOf : Instr → Option (Byte × Flag × Bool)
  | .bcc d => some (d, .C, false)
  | .bcs d => some (d, .C, true)
  | .beq d => some (d, .Z, true)
  | .bmi d => some (d, .N, true)
  | .bne d => some (d, .Z, false)
  | .bpl d => some (d, .N, false)
  | .bvc d => some (d, .V, false)
  | .bvs d => some (d, .V, true)
  | _ => none

/-- The cycles a branch adds to its base count of 2 (45_control_transfer.md R273). -/
def branchExtra (s : State) (d : Byte) (taken : Bool) : Nat :=
  if taken then (if (s.pc + d.signExtend 16) &&& 0xFF00 ≠ s.pc &&& 0xFF00 then 2 else 1) else 0

/-- `s` is what the host's scheduled IRQ call leaves of `s0` just before its master step: `CPU.irq()` where IRQ_EVENTS names the step,
and `s0` itself elsewhere (60_exceptions.md R441). -/
def IrqCalled (s0 s : State) : Prop := (s0.master ∈ s0.irqEvents → cpuIrq s0 = .ok s) ∧ (s0.master ∉ s0.irqEvents → s = s0)

/-- Bus reads of consecutive addresses from `a` on, in order, give these bytes and take `s` to `t`. -/
def BytesRead : Word → List Byte → State → State → Prop
  | _, [], s, t => t = s
  | a, b :: l, s, t => ∃ u, busRead a s = .ok (b, u) ∧ BytesRead (a + 1) l u t

/-- `n` calls of an operation, one after the other. -/
def runTimes (f : State → Run State) : Nat → State → Run State
  | 0, s => .ok s
  | n + 1, s => f s >>= runTimes f n

/-- The default UNDEF_CYCLES, by cycle count, as 30_encoding.md R152 lists them. -/
def undefTable : List (Nat × List Byte) :=
  [ (2, [0x02, 0x0B, 0x12, 0x1A, 0x22, 0x2B, 0x32, 0x3A, 0x42, 0x4B, 0x52, 0x5A, 0x62, 0x6B, 0x72, 0x7A,
         0x80, 0x82, 0x89, 0x8B, 0x92, 0xAB, 0xB2, 0xC2, 0xCB, 0xD2, 0xDA, 0xE2, 0xEB, 0xF2, 0xFA]),
    (3, [0x04, 0x44, 0x64, 0x87, 0xA7]),
    (4, [0x0C, 0x14, 0x1C, 0x34, 0x3C, 0x54, 0x5C, 0x74, 0x7C, 0x8F, 0x97, 0xAF, 0xB7, 0xBB, 0xBF, 0xD4, 0xDC, 0xF4, 0xFC]),
    (5, [0x07, 0x27, 0x47, 0x67, 0x9B, 0x9C, 0x9E, 0x9F, 0xB3, 0xC7, 0xE7]),
    (6, [0x0F, 0x17, 0x2F, 0x37, 0x4F, 0x57, 0x6F, 0x77, 0x83, 0x93, 0xA3, 0xCF, 0xD7, 0xEF, 0xF7]),
    (7, [0x1B, 0x1F, 0x3B, 0x3F, 0x5B, 0x5F, 0x7B, 0x7F, 0xDB, 0xDF, 0xFB, 0xFF]),
    (8, [0x03, 0x13, 0x23, 0x33, 0x43, 0x53, 0x63, 0x73, 0xC3, 0xD3, 0xE3, 0xF3]) ]

end Sys2Proof.Claims

open Sys2Proof Sys2Proof.Machine Sys2Proof.Claims

/-! ### Encoding -/

/-- Decoding the bytes of a well-formed instruction, whatever follows them, gives the instruction and what follows: no operand bit
is dropped. -/
def Obligations.DecodeEncodeRoundTrip : Prop :=
  ∀ (i : Instr) (rest : List Byte), i.wf = true → decode (encode i ++ rest) = .ok (i, rest)

/-- R146, R150, R151: the lookup is total and faithful. Every opcode byte with any operand bytes after it is the start of exactly one
well-formed instruction, whose opcode it is; the bytes are that instruction's encoding (but for BRK's padding byte); and the opcode
is one of the 105 exactly when the instruction is the 1-byte undefined one. -/
def Obligations.DecodeTotalAndFaithful : Prop :=
  ∀ op b1 b2 : Byte, ∃ i rest, decode [op, b1, b2] = .ok (i, rest) ∧ i.wf = true ∧ opcodeOf i = op ∧
    (encode i).length + rest.length = 3 ∧ (i ≠ .brk → encode i ++ rest = [op, b1, b2]) ∧
    (isUndefinedOpcode op = true ↔ i = .undef op) ∧ (i = .undef op → rest = [b1, b2])

/-- Words written out from the table of R147 decode to their instructions: one of each family. -/
def Obligations.DecodedWords : Prop :=
  decodeTableWord 16 0x7FA9 = some (.lda (.imm 0x7F)) ∧ decodeTableWord 24 0x12FFBD = some (.lda (.abx 0x12FF)) ∧
  decodeTableWord 16 0x20B6 = some (.ldx (.zpy 0x20)) ∧ decodeTableWord 16 0x2091 = some (.sta (.izy 0x20)) ∧
  decodeTableWord 8 0xBA = some .tsx ∧ decodeTableWord 8 0x48 = some .pha ∧
  decodeTableWord 16 0x4069 = some (.adc (.imm 0x40)) ∧ decodeTableWord 24 0x12342C = some (.bit (.abs 0x1234)) ∧
  decodeTableWord 8 0x4A = some (.lsr .acc) ∧ decodeTableWord 24 0x02006E = some (.ror (.mem (.abs 0x0200))) ∧
  decodeTableWord 24 0x02FF6C = some (.jmp (.ind 0x02FF)) ∧ decodeTableWord 16 0xFED0 = some (.bne 0xFE) ∧
  decodeTableWord 24 0x900020 = some (.jsr 0x9000) ∧ decodeTableWord 16 0xEA00 = some .brk ∧
  decodeTableWord 8 0xF8 = some .sed ∧ decodeTableWord 8 0x9E = some (.undef 0x9E)

/-! ### Fetch, dispatch and time -/

/-- The fetch answers whenever no cartridge access can be out of range. It gives a well-formed instruction of the opcode fetched, and
leaves PC past the instruction (R180) and every other register, RAM, the cartridge, the DMA state and the counters as they were. -/
def Obligations.FetchMovesPcPastInstruction : Prop :=
  ∀ s : State, s.cart.inRange →
    ∃ i t, fetchInstr s = .ok (i, t) ∧ i.wf = true ∧ opcodeOf i = t.opcode ∧ t.pc = s.pc + BitVec.ofNat 16 i.length ∧
      t.a = s.a ∧ t.x = s.x ∧ t.y = s.y ∧ t.sp = s.sp ∧ t.p = s.p ∧ t.ram = s.ram ∧ t.cart = s.cart ∧ t.dma = s.dma ∧
      t.cycles = s.cycles ∧ t.clockCount = s.clockCount ∧ t.master = s.master ∧ t.resets = s.resets

/-- A step runs the decoded instruction. A step first makes the IRQ call that is due, if any, which leaves `s` (R441). In a CPU slot with
no countdown and no DMA, when the bytes at PC (BRK's padding byte apart, which is never read) decode to `i`, the rest is: the PPU's
cycle, then `exec i` with PC past the instruction and the opcode register loaded, then the count of the CPU cycle, then NMI delivery,
and M up by one. The second clause says the same wherever PC points, a PPU or controller port too: each byte is one bus read, in order,
with its side effect. That the slot is chosen by M before its increment is the spec's own decision D10, the order of the reads its
decision D5, that every CPU cycle counts its decision D8. -/
def Obligations.StepRunsDecodedInstruction : Prop :=
  (∀ (s0 s : State) (q : Ppu) (bs : List Byte) (i : Instr),
    IrqCalled s0 s → ppuClock s.cart s.ppu = .ok q → s.master % 3 = 0 → s.dma.active = false → s.cycles = 0 →
    decode bs = .ok (i, []) →
    (∀ k b, bs[k]? = some b → (i = .brk → k = 0) → peek s (s.pc + BitVec.ofNat 16 k) = some b) →
    step s0 = toOutcome (do
      let t ← ofOutcome (exec i { s with ppu := q, opcode := opcodeOf i, pc := s.pc + BitVec.ofNat 16 bs.length })
      let u ← nmiPart { t with cycles := t.cycles - 1, clockCount := t.clockCount + 1 }
      .ok { u with master := u.master + 1 })) ∧
  ∀ (s0 s f : State) (q : Ppu) (bs : List Byte) (i : Instr),
    IrqCalled s0 s → ppuClock s.cart s.ppu = .ok q → s.master % 3 = 0 → s.dma.active = false → s.cycles = 0 →
    decode bs = .ok (i, []) → BytesRead s.pc (if i = .brk then bs.take 1 else bs) { s with ppu := q } f →
    step s0 = toOutcome (do
      let t ← ofOutcome (exec i { f with opcode := opcodeOf i, pc := s.pc + BitVec.ofNat 16 bs.length })
      let u ← nmiPart { t with cycles := t.cycles - 1, clockCount := t.clockCount + 1 }
      .ok { u with master := u.master + 1 })

/-- R173: the countdown an instruction leaves is the base count of its opcode (for an undefined opcode UNDEF_CYCLES), one more when
both the mode and the operation ask for it (the nine operations are the spec's own decision D7), and for a branch R273's cycles. R178:
the countdown calls after it make no bus access and change no state except `cycles` and `clock_count`: `k` calls of a CPU whose
countdown is at least `k` take `k` off the countdown and add `k` to the count (`clock_count` is the spec's own decision D8). -/
def Obligations.InstructionTimeAndCountdown : Prop :=
  (∀ (k : Nat) (s : State), k ≤ s.cycles →
    runTimes cpuClock k s = .ok { s with cycles := s.cycles - k, clockCount := s.clockCount + k }) ∧
  ∀ (i : Instr) (s t : State), exec i s = .next t →
    t.cycles = (match i with | .undef op => s.undefCycles op | i => baseCycles (opcodeOf i))
      + (if asksExtra i && ((readMode i).map (leavesPage s)).getD false then 1 else 0)
      + (match branchOf i with | some (d, f, v) => branchExtra s d (s.flag f == v) | none => 0)

/-! ### Loads, stores, transfers -/

/-- R200, R201, R202: LDA, LDX and LDY, every form, with their opcodes and base cycles: the register takes the operand, Z and N are
set from it, nothing else is written, and the page-crossing cycle is added. -/
def Obligations.LoadResults : Prop :=
  (∀ (b : Byte) (w : Word), EncodingsAre
    [(.lda (.imm b), 0xA9, 2), (.lda (.zp0 b), 0xA5, 3), (.lda (.zpx b), 0xB5, 4), (.lda (.abs w), 0xAD, 4),
     (.lda (.abx w), 0xBD, 4), (.lda (.aby w), 0xB9, 4), (.lda (.izx b), 0xA1, 6), (.lda (.izy b), 0xB1, 5),
     (.ldx (.imm b), 0xA2, 2), (.ldx (.zp0 b), 0xA6, 3), (.ldx (.zpy b), 0xB6, 4), (.ldx (.abs w), 0xAE, 4),
     (.ldx (.aby w), 0xBE, 4),
     (.ldy (.imm b), 0xA0, 2), (.ldy (.zp0 b), 0xA4, 3), (.ldy (.zpx b), 0xB4, 4), (.ldy (.abs w), 0xAC, 4),
     (.ldy (.abx w), 0xBC, 4)]) ∧
  ∀ s : State, s.cart.inRange →
    (∀ m, ∃ b cross s1 p, readOperand (srcOperand m) s = .ok (b, cross, s1) ∧ FlagsWritten s.p p (zn b) ∧
      exec (.lda m) s = .next { s1 with a := b, p := p, cycles := baseCycles (opcodeOf (.lda m)) + cross.toNat }) ∧
    (∀ m, ∃ b cross s1 p, readOperand (ldxOperand m) s = .ok (b, cross, s1) ∧ FlagsWritten s.p p (zn b) ∧
      exec (.ldx m) s = .next { s1 with x := b, p := p, cycles := baseCycles (opcodeOf (.ldx m)) + cross.toNat }) ∧
    (∀ m, ∃ b cross s1 p, readOperand (ldyOperand m) s = .ok (b, cross, s1) ∧ FlagsWritten s.p p (zn b) ∧
      exec (.ldy m) s = .next { s1 with y := b, p := p, cycles := baseCycles (opcodeOf (.ldy m)) + cross.toNat })

/-- R203, R204, R205: STA, STX and STY, every form, with their opcodes and fixed cycle counts: one bus write of the register at the
effective address, with no read of it, no flag and no register written. -/
def Obligations.StoreResults : Prop :=
  (∀ (b : Byte) (w : Word), EncodingsAre
    [(.sta (.zp0 b), 0x85, 3), (.sta (.zpx b), 0x95, 4), (.sta (.abs w), 0x8D, 4), (.sta (.abx w), 0x9D, 5),
     (.sta (.aby w), 0x99, 5), (.sta (.izx b), 0x81, 6), (.sta (.izy b), 0x91, 6),
     (.stx (.zp0 b), 0x86, 3), (.stx (.zpy b), 0x96, 4), (.stx (.abs w), 0x8E, 4),
     (.sty (.zp0 b), 0x84, 3), (.sty (.zpx b), 0x94, 4), (.sty (.abs w), 0x8C, 4)]) ∧
  ∀ s : State, 1 ≤ s.cart.prgBanks →
    (∀ m, ∃ t, busWrite (addrOf (staAddr m) s).1 s.a
        { s with addrAbs := (addrOf (staAddr m) s).1, cycles := baseCycles (opcodeOf (.sta m)) } = .ok t ∧
      exec (.sta m) s = .next t ∧ SameRegisters s t ∧ t.cycles = baseCycles (opcodeOf (.sta m))) ∧
    (∀ m, ∃ t, busWrite (addrOf (stxAddr m) s).1 s.x
        { s with addrAbs := (addrOf (stxAddr m) s).1, cycles := baseCycles (opcodeOf (.stx m)) } = .ok t ∧
      exec (.stx m) s = .next t ∧ SameRegisters s t ∧ t.cycles = baseCycles (opcodeOf (.stx m))) ∧
    (∀ m, ∃ t, busWrite (addrOf (styAddr m) s).1 s.y
        { s with addrAbs := (addrOf (styAddr m) s).1, cycles := baseCycles (opcodeOf (.sty m)) } = .ok t ∧
      exec (.sty m) s = .next t ∧ SameRegisters s t ∧ t.cycles = baseCycles (opcodeOf (.sty m)))

/-- R206 to R211, R242, R243, R245, R246: the six transfers, INX, INY, DEX and DEY, with their opcodes, in every state. TXS writes no
flag. -/
def Obligations.TransferAndIndexResults : Prop :=
  EncodingsAre [(.tax, 0xAA, 2), (.tay, 0xA8, 2), (.txa, 0x8A, 2), (.tya, 0x98, 2), (.tsx, 0xBA, 2), (.txs, 0x9A, 2),
    (.inx, 0xE8, 2), (.iny, 0xC8, 2), (.dex, 0xCA, 2), (.dey, 0x88, 2)] ∧
  ∀ s : State,
    (∃ p, FlagsWritten s.p p (zn s.a) ∧ exec .tax s = .next { s with x := s.a, p := p, fetched := s.a, cycles := 2 }) ∧
    (∃ p, FlagsWritten s.p p (zn s.a) ∧ exec .tay s = .next { s with y := s.a, p := p, fetched := s.a, cycles := 2 }) ∧
    (∃ p, FlagsWritten s.p p (zn s.x) ∧ exec .txa s = .next { s with a := s.x, p := p, fetched := s.a, cycles := 2 }) ∧
    (∃ p, FlagsWritten s.p p (zn s.y) ∧ exec .tya s = .next { s with a := s.y, p := p, fetched := s.a, cycles := 2 }) ∧
    (∃ p, FlagsWritten s.p p (zn s.sp) ∧ exec .tsx s = .next { s with x := s.sp, p := p, fetched := s.a, cycles := 2 }) ∧
    exec .txs s = .next { s with sp := s.x, fetched := s.a, cycles := 2 } ∧
    (∃ p, FlagsWritten s.p p (zn (s.x + 1)) ∧ exec .inx s = .next { s with x := s.x + 1, p := p, fetched := s.a, cycles := 2 }) ∧
    (∃ p, FlagsWritten s.p p (zn (s.y + 1)) ∧ exec .iny s = .next { s with y := s.y + 1, p := p, fetched := s.a, cycles := 2 }) ∧
    (∃ p, FlagsWritten s.p p (zn (s.x - 1)) ∧ exec .dex s = .next { s with x := s.x - 1, p := p, fetched := s.a, cycles := 2 }) ∧
    (∃ p, FlagsWritten s.p p (zn (s.y - 1)) ∧ exec .dey s = .next { s with y := s.y - 1, p := p, fetched := s.a, cycles := 2 })

/-! ### Stack -/

/-- R220 to R224: PHA, PHP, PLA and PLP, in every state. A push writes one byte in page 1 at SP and takes SP down by one within 8
bits; a pull takes SP up by one and reads the byte in page 1 there. PHA and PHP write no flag, and PHP's byte has bits 4 and 5 as 1.
PLA sets Z and N; PLP takes C, Z, I, D, V and N from the byte, with B as 0 and U as 1. The values of B and U in a pushed and a pulled
status are the spec's own decision D3. -/
def Obligations.StackResults : Prop :=
  EncodingsAre [(.pha, 0x48, 3), (.php, 0x08, 3), (.pla, 0x68, 4), (.plp, 0x28, 4)] ∧
  ∀ s : State,
    exec .pha s = .next
      { s with ram := s.ram.write (0x100 + s.sp.toNat) s.a, sp := s.sp - 1, fetched := s.a, cycles := 3 } ∧
    (∃ v, FlagsWritten s.p v [(.B, true), (.U, true)] ∧ v = s.p ||| 0x30 ∧
      exec .php s = .next
        { s with ram := s.ram.write (0x100 + s.sp.toNat) v, sp := s.sp - 1, fetched := s.a, cycles := 3 }) ∧
    ∀ v, v = s.ram.read (0x100 + (s.sp + 1).toNat) →
      (∃ p, FlagsWritten s.p p (zn v) ∧
        exec .pla s = .next { s with a := v, p := p, sp := s.sp + 1, fetched := s.a, cycles := 4 }) ∧
      (∃ p, FlagsWritten v p [(.B, false), (.U, true)] ∧ p = (v &&& 0xCF) ||| 0x20 ∧
        exec .plp s = .next { s with p := p, sp := s.sp + 1, fetched := s.a, cycles := 4 })

/-! ### Arithmetic and logic -/

/-- R231: ADC, every form: A takes the sum of A, the operand and C modulo 256, C the carry out, V the sign-bit formula of the rule,
Z and N from the result, whatever D holds. -/
def Obligations.AdcResult : Prop :=
  (∀ (b : Byte) (w : Word), EncodingsAre
    [(.adc (.imm b), 0x69, 2), (.adc (.zp0 b), 0x65, 3), (.adc (.zpx b), 0x75, 4), (.adc (.abs w), 0x6D, 4),
     (.adc (.abx w), 0x7D, 4), (.adc (.aby w), 0x79, 4), (.adc (.izx b), 0x61, 6), (.adc (.izy b), 0x71, 5)]) ∧
  ∀ (s : State) (m : Src8), s.cart.inRange →
    ∃ b cross s1 r p, readOperand (srcOperand m) s = .ok (b, cross, s1) ∧
      r.toNat = (s.a.toNat + b.toNat + (s.flag .C).toNat) % 256 ∧
      FlagsWritten s.p p ([(.C, decide (s.a.toNat + b.toNat + (s.flag .C).toNat > 0xFF)),
        (.V, (~~~(s.a ^^^ b) &&& (s.a ^^^ r)).getLsbD 7)] ++ zn r) ∧
      exec (.adc m) s = .next { s1 with a := r, p := p, cycles := baseCycles (opcodeOf (.adc m)) + cross.toNat }

/-- R232: SBC, every form: ADC of the one's complement of the operand, so that A takes A - M - (1 - C) modulo 256, and C is 1 when no
borrow is needed. -/
def Obligations.SbcResult : Prop :=
  (∀ (b : Byte) (w : Word), EncodingsAre
    [(.sbc (.imm b), 0xE9, 2), (.sbc (.zp0 b), 0xE5, 3), (.sbc (.zpx b), 0xF5, 4), (.sbc (.abs w), 0xED, 4),
     (.sbc (.abx w), 0xFD, 4), (.sbc (.aby w), 0xF9, 4), (.sbc (.izx b), 0xE1, 6), (.sbc (.izy b), 0xF1, 5)]) ∧
  ∀ (s : State) (m : Src8), s.cart.inRange →
    ∃ b cross s1 r p, readOperand (srcOperand m) s = .ok (b, cross, s1) ∧
      (r.toNat : Int) = ((s.a.toNat : Int) - b.toNat - (1 - (s.flag .C).toNat)) % 256 ∧
      FlagsWritten s.p p ([(.C, decide (b.toNat + 1 ≤ s.a.toNat + (s.flag .C).toNat)),
        (.V, (~~~(s.a ^^^ (b ^^^ 0xFF)) &&& (s.a ^^^ r)).getLsbD 7)] ++ zn r) ∧
      exec (.sbc m) s = .next { s1 with a := r, p := p, cycles := baseCycles (opcodeOf (.sbc m)) + cross.toNat }

/-- 43_arith_logic.md R230: V after ADC and SBC is the signed overflow: it is 1 exactly when the exact signed sum or difference does
not fit in 8 bits, and otherwise the result read as signed is that sum or difference. -/
def Obligations.OverflowIsSigned : Prop :=
  ∀ (s : State) (m : Src8) (b : Byte) (cross : Bool) (s1 t : State), readOperand (srcOperand m) s = .ok (b, cross, s1) →
    (exec (.adc m) s = .next t →
      let sum := s.a.toInt + b.toInt + (s.flag .C).toNat
      (t.flag .V = true ↔ sum < -128 ∨ 127 < sum) ∧ (t.flag .V = false → t.a.toInt = sum)) ∧
    (exec (.sbc m) s = .next t →
      let diff := s.a.toInt - b.toInt - (1 - (s.flag .C).toNat)
      (t.flag .V = true ↔ diff < -128 ∨ 127 < diff) ∧ (t.flag .V = false → t.a.toInt = diff))

/-- R233, R234, R235: AND, ORA and EOR, every form. -/
def Obligations.LogicResults : Prop :=
  (∀ (b : Byte) (w : Word), EncodingsAre
    [(.and (.imm b), 0x29, 2), (.and (.zp0 b), 0x25, 3), (.and (.zpx b), 0x35, 4), (.and (.abs w), 0x2D, 4),
     (.and (.abx w), 0x3D, 4), (.and (.aby w), 0x39, 4), (.and (.izx b), 0x21, 6), (.and (.izy b), 0x31, 5),
     (.ora (.imm b), 0x09, 2), (.ora (.zp0 b), 0x05, 3), (.ora (.zpx b), 0x15, 4), (.ora (.abs w), 0x0D, 4),
     (.ora (.abx w), 0x1D, 4), (.ora (.aby w), 0x19, 4), (.ora (.izx b), 0x01, 6), (.ora (.izy b), 0x11, 5),
     (.eor (.imm b), 0x49, 2), (.eor (.zp0 b), 0x45, 3), (.eor (.zpx b), 0x55, 4), (.eor (.abs w), 0x4D, 4),
     (.eor (.abx w), 0x5D, 4), (.eor (.aby w), 0x59, 4), (.eor (.izx b), 0x41, 6), (.eor (.izy b), 0x51, 5)]) ∧
  ∀ (s : State) (m : Src8), s.cart.inRange →
    ∃ b cross s1, readOperand (srcOperand m) s = .ok (b, cross, s1) ∧
      (∃ p, FlagsWritten s.p p (zn (s.a &&& b)) ∧ exec (.and m) s = .next
        { s1 with a := s.a &&& b, p := p, cycles := baseCycles (opcodeOf (.and m)) + cross.toNat }) ∧
      (∃ p, FlagsWritten s.p p (zn (s.a ||| b)) ∧ exec (.ora m) s = .next
        { s1 with a := s.a ||| b, p := p, cycles := baseCycles (opcodeOf (.ora m)) + cross.toNat }) ∧
      (∃ p, FlagsWritten s.p p (zn (s.a ^^^ b)) ∧ exec (.eor m) s = .next
        { s1 with a := s.a ^^^ b, p := p, cycles := baseCycles (opcodeOf (.eor m)) + cross.toNat })

/-- R236 to R240: BIT, CMP, CPX and CPY, every form; no register is written. BIT sets Z from A and the operand, N and V from bits 7
and 6 of the operand; the compares set C, Z and N of the comparison and leave V. Only CMP has the page-crossing cycle. -/
def Obligations.TestAndCompareResults : Prop :=
  (∀ (b : Byte) (w : Word), EncodingsAre
    [(.bit (.zp0 b), 0x24, 3), (.bit (.abs w), 0x2C, 4),
     (.cmp (.imm b), 0xC9, 2), (.cmp (.zp0 b), 0xC5, 3), (.cmp (.zpx b), 0xD5, 4), (.cmp (.abs w), 0xCD, 4),
     (.cmp (.abx w), 0xDD, 4), (.cmp (.aby w), 0xD9, 4), (.cmp (.izx b), 0xC1, 6), (.cmp (.izy b), 0xD1, 5),
     (.cpx (.imm b), 0xE0, 2), (.cpx (.zp0 b), 0xE4, 3), (.cpx (.abs w), 0xEC, 4),
     (.cpy (.imm b), 0xC0, 2), (.cpy (.zp0 b), 0xC4, 3), (.cpy (.abs w), 0xCC, 4)]) ∧
  ∀ s : State, s.cart.inRange →
    (∀ m, ∃ b cross s1 p, readOperand (bitOperand m) s = .ok (b, cross, s1) ∧
      FlagsWritten s.p p [(.Z, (s.a &&& b) == 0), (.N, b.getLsbD 7), (.V, b.getLsbD 6)] ∧
      exec (.bit m) s = .next { s1 with p := p, cycles := baseCycles (opcodeOf (.bit m)) }) ∧
    (∀ m, ∃ b cross s1 p, readOperand (srcOperand m) s = .ok (b, cross, s1) ∧ FlagsWritten s.p p (comparison s.a b) ∧
      exec (.cmp m) s = .next { s1 with p := p, cycles := baseCycles (opcodeOf (.cmp m)) + cross.toNat }) ∧
    (∀ m, ∃ b cross s1 p, readOperand (cpOperand m) s = .ok (b, cross, s1) ∧ FlagsWritten s.p p (comparison s.x b) ∧
      exec (.cpx m) s = .next { s1 with p := p, cycles := baseCycles (opcodeOf (.cpx m)) }) ∧
    (∀ m, ∃ b cross s1 p, readOperand (cpOperand m) s = .ok (b, cross, s1) ∧ FlagsWritten s.p p (comparison s.y b) ∧
      exec (.cpy m) s = .next { s1 with p := p, cycles := baseCycles (opcodeOf (.cpy m)) })

/-- R241, R244: INC and DEC, every form: one read and one write at the effective address; Z and N from the new byte. -/
def Obligations.MemoryIncDecResults : Prop :=
  (∀ (b : Byte) (w : Word), EncodingsAre
    [(.inc (.zp0 b), 0xE6, 5), (.inc (.zpx b), 0xF6, 6), (.inc (.abs w), 0xEE, 6), (.inc (.abx w), 0xFE, 7),
     (.dec (.zp0 b), 0xC6, 5), (.dec (.zpx b), 0xD6, 6), (.dec (.abs w), 0xCE, 6), (.dec (.abx w), 0xDE, 7)]) ∧
  ∀ (s : State) (m : RmwDst), s.cart.inRange →
    ∃ b cross s1, readOperand (.mem (rmwAddr m)) s = .ok (b, cross, s1) ∧
      (∃ p t, FlagsWritten s.p p (zn (b + 1)) ∧ exec (.inc m) s = .next t ∧
        busWrite (addrOf (rmwAddr m) s).1 (b + 1) { s1 with p := p, cycles := baseCycles (opcodeOf (.inc m)) } = .ok t) ∧
      (∃ p t, FlagsWritten s.p p (zn (b - 1)) ∧ exec (.dec m) s = .next t ∧
        busWrite (addrOf (rmwAddr m) s).1 (b - 1) { s1 with p := p, cycles := baseCycles (opcodeOf (.dec m)) } = .ok t)

namespace Sys2Proof.Claims

/-- The result and the carry out of a shift or rotate of `m` with carry in `c`, as numbers (44_shift_rotate.md R260 to R263). -/
def shiftOf (i : Instr) (m : Byte) (c : Bool) : Nat × Bool :=
  match i with
  | .asl _ => ((2 * m.toNat) % 256, m.getLsbD 7)
  | .lsr _ => (m.toNat / 2, m.getLsbD 0)
  | .rol _ => ((2 * m.toNat + c.toNat) % 256, m.getLsbD 7)
  | _ => (128 * c.toNat + m.toNat / 2, m.getLsbD 0)

end Sys2Proof.Claims

/-- R260 to R264: ASL, LSR, ROL and ROR, the accumulator form, in every state, and every memory form: the result goes back to where
the operand came from, C takes the bit shifted out, Z and N come from the result. -/
def Obligations.ShiftResults : Prop :=
  (∀ (b : Byte) (w : Word), EncodingsAre
    [(.asl .acc, 0x0A, 2), (.asl (.mem (.zp0 b)), 0x06, 5), (.asl (.mem (.zpx b)), 0x16, 6), (.asl (.mem (.abs w)), 0x0E, 6),
     (.asl (.mem (.abx w)), 0x1E, 7),
     (.lsr .acc, 0x4A, 2), (.lsr (.mem (.zp0 b)), 0x46, 5), (.lsr (.mem (.zpx b)), 0x56, 6), (.lsr (.mem (.abs w)), 0x4E, 6),
     (.lsr (.mem (.abx w)), 0x5E, 7),
     (.rol .acc, 0x2A, 2), (.rol (.mem (.zp0 b)), 0x26, 5), (.rol (.mem (.zpx b)), 0x36, 6), (.rol (.mem (.abs w)), 0x2E, 6),
     (.rol (.mem (.abx w)), 0x3E, 7),
     (.ror .acc, 0x6A, 2), (.ror (.mem (.zp0 b)), 0x66, 5), (.ror (.mem (.zpx b)), 0x76, 6), (.ror (.mem (.abs w)), 0x6E, 6),
     (.ror (.mem (.abx w)), 0x7E, 7)]) ∧
  ∀ (mk : ShiftDst → Instr), mk ∈ [Instr.asl, Instr.lsr, Instr.rol, Instr.ror] → ∀ s : State,
    (∃ r p, r.toNat = (shiftOf (mk .acc) s.a (s.flag .C)).1 ∧
      FlagsWritten s.p p ([(.C, (shiftOf (mk .acc) s.a (s.flag .C)).2)] ++ zn r) ∧
      exec (mk .acc) s = .next { s with a := r, p := p, fetched := s.a, cycles := 2 }) ∧
    (∀ m, s.cart.inRange →
      ∃ b cross s1 r p t, readOperand (.mem (rmwAddr m)) s = .ok (b, cross, s1) ∧
        r.toNat = (shiftOf (mk (.mem m)) b (s.flag .C)).1 ∧
        FlagsWritten s.p p ([(.C, (shiftOf (mk (.mem m)) b (s.flag .C)).2)] ++ zn r) ∧
        exec (mk (.mem m)) s = .next t ∧
        busWrite (addrOf (rmwAddr m) s).1 r { s1 with p := p, cycles := baseCycles (opcodeOf (mk (.mem m))) } = .ok t)

/-! ### Control transfer -/

/-- R270: JMP. The absolute form takes its operand; the indirect form takes the word its pointer holds, the second byte read from the
pointer's own page (R142). Reading the low byte first is the spec's own decision D35. -/
def Obligations.JumpResults : Prop :=
  (∀ w : Word, EncodingsAre [(.jmp (.abs w), 0x4C, 3), (.jmp (.ind w), 0x6C, 5)]) ∧
  ∀ (s : State) (w : Word),
    exec (.jmp (.abs w)) s = .next { s with pc := w, addrAbs := w, cycles := 3 } ∧
    (s.cart.inRange → ∃ lo hi s1 s2, busRead w s = .ok (lo, s1) ∧
      busRead (if w &&& 0x00FF = 0x00FF then w &&& 0xFF00 else w + 1) s1 = .ok (hi, s2) ∧
      exec (.jmp (.ind w)) s = .next { s2 with pc := hi ++ lo, addrAbs := hi ++ lo, cycles := 5 })

/-- R271, R272: JSR and RTS, in every state. JSR pushes the address of its last byte, high byte first, and PC takes the operand; RTS
pulls a word, low byte first, and PC takes it plus 1. -/
def Obligations.SubroutineResults : Prop :=
  ∀ (s : State) (w : Word), EncodingsAre [(.jsr w, 0x20, 6), (.rts, 0x60, 6)] ∧
    exec (.jsr w) s = .next { s with
      ram := (s.ram.write (0x100 + s.sp.toNat) ((s.pc - 1).extractLsb' 8 8)).write (0x100 + (s.sp - 1).toNat)
        ((s.pc - 1).extractLsb' 0 8)
      sp := s.sp - 2, pc := w, addrAbs := w, cycles := 6 } ∧
    exec .rts s = .next { s with
      pc := (s.ram.read (0x100 + (s.sp + 2).toNat) ++ s.ram.read (0x100 + (s.sp + 1).toNat)) + 1
      sp := s.sp + 2, fetched := s.a, cycles := 6 }

/-- R273 to R281: the eight branches, in every state: which flag takes each, the target, and the cycles. -/
def Obligations.BranchResults : Prop :=
  (∀ d : Byte, EncodingsAre [(.bcc d, 0x90, 2), (.bcs d, 0xB0, 2), (.beq d, 0xF0, 2), (.bmi d, 0x30, 2),
    (.bne d, 0xD0, 2), (.bpl d, 0x10, 2), (.bvc d, 0x50, 2), (.bvs d, 0x70, 2)]) ∧
  ∀ (s : State) (d : Byte) (i : Instr) (f : Flag) (v : Bool),
    (i, f, v) ∈ [(Instr.bcc d, Flag.C, false), (Instr.bcs d, Flag.C, true), (Instr.beq d, Flag.Z, true),
      (Instr.bmi d, Flag.N, true), (Instr.bne d, Flag.Z, false), (Instr.bpl d, Flag.N, false),
      (Instr.bvc d, Flag.V, false), (Instr.bvs d, Flag.V, true)] →
    exec i s = .next { s with
      pc := if s.flag f = v then s.pc + d.signExtend 16 else s.pc
      addrRel := d.signExtend 16
      cycles := 2 + branchExtra s d (s.flag f == v) }

/-! ### Flags and system -/

/-- R290 to R297: what the operations of the seven flag instructions and NOP do, in every state: the one flag, and nothing else. PC's
advance is the fetch's (FetchMovesPcPastInstruction). -/
def Obligations.FlagInstructionResults : Prop :=
  EncodingsAre [(.clc, 0x18, 2), (.cld, 0xD8, 2), (.cli, 0x58, 2), (.clv, 0xB8, 2), (.sec, 0x38, 2), (.sed, 0xF8, 2),
    (.sei, 0x78, 2), (.nop, 0xEA, 2)] ∧
  (∀ (s : State) (i : Instr) (f : Flag) (v : Bool),
    (i, f, v) ∈ [(Instr.clc, Flag.C, false), (Instr.cld, Flag.D, false), (Instr.cli, Flag.I, false),
      (Instr.clv, Flag.V, false), (Instr.sec, Flag.C, true), (Instr.sed, Flag.D, true), (Instr.sei, Flag.I, true)] →
    ∃ p, FlagsWritten s.p p [(f, v)] ∧ exec i s = .next { s with p := p, fetched := s.a, cycles := 2 }) ∧
  ∀ s : State, exec .nop s = .next { s with fetched := s.a, cycles := 2 }

/-- R150, R152, R300: the undefined opcodes are exactly the listed ones; each is a no-op of UNDEF_CYCLES cycles, which is the table's
count where the run sets no other and lies in 1..8 whatever the run sets. The length and the count are the spec's own decision D6. That an
ill-formed `undef` term is a no-op too is the model's choice (log 14). -/
def Obligations.UndefinedOpcodeResults : Prop :=
  (∀ op : Byte, isUndefinedOpcode op = true ↔ ∃ e ∈ undefTable, op ∈ e.2) ∧
  (∀ s : State, ∀ e ∈ undefTable, ∀ op ∈ e.2,
    1 ≤ s.undefCycles op ∧ s.undefCycles op ≤ 8 ∧ (s.params.undefCycles = [] → s.undefCycles op = e.1)) ∧
  ∀ (s : State) (op : Byte), exec (.undef op) s = .next { s with fetched := s.a, cycles := s.undefCycles op }

/-- R298: BRK, in every state with a program bank, whatever I holds: PC high, PC low and P with bits 4 and 5 as 1 are pushed, I becomes
1 and B 0 with every other flag as it was, and PC comes from the vector at 0xFFFE. The 2 bytes are the spec's own decision D34, the
order of the status push and the setting of I its decision D4. R299: RTI, in every state: P from the first pulled byte with B as 0
and U as 1 (the spec's own decision D3), then PC, with no adjustment. -/
def Obligations.BrkAndRtiResults : Prop :=
  EncodingsAre [(.brk, 0x00, 7), (.rti, 0x40, 6)] ∧
  (∀ s : State, ∃ p, FlagsWritten (s.ram.read (0x100 + (s.sp + 1).toNat)) p [(.B, false), (.U, true)] ∧
    exec .rti s = .next { s with
      p := p, pc := s.ram.read (0x100 + (s.sp + 3).toNat) ++ s.ram.read (0x100 + (s.sp + 2).toNat)
      sp := s.sp + 3, fetched := s.a, cycles := 6 }) ∧
  ∀ s : State, 1 ≤ s.cart.prgBanks →
    ∃ p lo hi, FlagsWritten s.p p [(.B, false), (.I, true)] ∧ busRead 0xFFFE s = .ok (lo, s) ∧ busRead 0xFFFF s = .ok (hi, s) ∧
      exec .brk s = .next { s with
        ram := ((s.ram.write (0x100 + s.sp.toNat) (s.pc.extractLsb' 8 8)).write (0x100 + (s.sp - 1).toNat)
          (s.pc.extractLsb' 0 8)).write (0x100 + (s.sp - 2).toNat) (s.p ||| 0x30)
        sp := s.sp - 3, p := p, pc := hi ++ lo, addrAbs := s.pc - 1, cycles := 7 }

/-- R312, R313: IRQ and NMI entry. With I set an IRQ call changes nothing at all; with I clear it pushes PC high, PC low and P with bit
4 as 0 and bit 5 as 1, sets I, loads PC from 0xFFFE and sets the countdown to 7. NMI does the same whatever I holds, the pushed I as
it was, from 0xFFFA and with a countdown of 8. Setting I after the push is the spec's own decision D4, assigning the countdown its
decision D33. -/
def Obligations.InterruptEntries : Prop :=
  ∀ s : State, 1 ≤ s.cart.prgBanks →
    (s.flag .I = true → cpuIrq s = .ok s) ∧
    ∃ v p lo hi lo' hi', FlagsWritten s.p v [(.B, false), (.U, true)] ∧
      FlagsWritten s.p p [(.B, false), (.U, true), (.I, true)] ∧
      busRead 0xFFFE s = .ok (lo, s) ∧ busRead 0xFFFF s = .ok (hi, s) ∧
      busRead 0xFFFA s = .ok (lo', s) ∧ busRead 0xFFFB s = .ok (hi', s) ∧
      ∀ ram, ram = ((s.ram.write (0x100 + s.sp.toNat) (s.pc.extractLsb' 8 8)).write (0x100 + (s.sp - 1).toNat)
          (s.pc.extractLsb' 0 8)).write (0x100 + (s.sp - 2).toNat) v →
        (s.flag .I = false → cpuIrq s = .ok { s with ram := ram, sp := s.sp - 3, p := p, pc := hi ++ lo, cycles := 7 }) ∧
        cpuNmi s = .ok { s with ram := ram, sp := s.sp - 3, p := p, pc := hi' ++ lo', cycles := 8 }

/-- A return undoes its entry (45_control_transfer.md R271, R272; 60_exceptions.md R318). RTS right after JSR comes back to the
instruction after JSR, with SP as it was; RTI right after a BRK, IRQ or NMI entry, which sets I, comes back to the PC, SP and flags of
before it, with B as 0 and U as 1 (the spec's own decision D3). -/
def Obligations.ReturnsUndoEntries : Prop :=
  (∀ (s : State) (w : Word), ∃ t u, exec (.jsr w) s = .next t ∧ exec .rts t = .next u ∧ t.pc = w ∧ u.pc = s.pc ∧ u.sp = s.sp) ∧
  ∀ s : State, 1 ≤ s.cart.prgBanks → ∀ t : State,
    (exec .brk s = .next t ∨ (cpuIrq s = .ok t ∧ s.flag .I = false) ∨ cpuNmi s = .ok t) →
    t.flag .I = true ∧
    ∃ u, exec .rti t = .next u ∧ u.pc = s.pc ∧ u.sp = s.sp ∧ u.a = s.a ∧ u.x = s.x ∧ u.y = s.y ∧
      FlagsWritten s.p u.p [(.B, false), (.U, true)]

/-! ### Frames -/

/-- Every instruction, in every state in which it answers: every register is as it was but those it writes, every flag but those it
writes, PC but for the control transfers, and the opcode register, the counters, the parameters and the host's schedule. -/
def Obligations.RegisterAndFlagFrame : Prop :=
  ∀ (i : Instr) (s t : State), exec i s = .next t →
    (∀ r, r ∉ destRegs i → regOf t r = regOf s r) ∧ (∀ f, f ∉ destFlags i → t.flag f = s.flag f) ∧
    (writesPc i = false → t.pc = s.pc) ∧
    t.opcode = s.opcode ∧ t.clockCount = s.clockCount ∧ t.master = s.master ∧ t.params = s.params ∧ t.irqEvents = s.irqEvents ∧
    t.resets = s.resets

/-- Every instruction, in every state in which it answers: every byte of memory is as it was but the bytes stored to. On the CPU bus
a byte is `peek` at an address, and the stored bytes are those at the locations `storedTo` gives; a form that stores nothing changes
none. The video memories and CHR change only by a store to a PPU port, and the cartridge's size never. -/
def Obligations.MemoryFrame : Prop :=
  ∀ (i : Instr) (s t : State), exec i s = .next t →
    (∀ a, (∀ w ∈ storedTo i s, locate s.cart a ≠ locate s.cart w) → peek t a = peek s a) ∧
    ((∀ w ∈ storedTo i s, ∀ p, locate s.cart w ≠ .port p) →
      t.ppu.nt0 = s.ppu.nt0 ∧ t.ppu.nt1 = s.ppu.nt1 ∧ t.ppu.pt0 = s.ppu.pt0 ∧ t.ppu.pt1 = s.ppu.pt1 ∧
      t.ppu.pal = s.ppu.pal ∧ t.ppu.oam = s.ppu.oam ∧ t.cart.chr = s.cart.chr) ∧
    t.cart.prgBanks = s.cart.prgBanks ∧ t.cart.chrBanks = s.cart.chrBanks ∧ t.cart.mirroring = s.cart.mirroring

/-- Every instruction, in every state in which it answers: the PPU is as it was unless a PPU port is read or written, each controller
register unless its own address is, the DMA state unless 0x4014 is written, and the mapper's register unless PRG is. -/
def Obligations.DeviceFrame : Prop :=
  ∀ (i : Instr) (s t : State), exec i s = .next t →
    ((∀ w ∈ storedTo i s ++ readFrom i s, ∀ p, locate s.cart w ≠ .port p) → t.ppu = s.ppu) ∧
    (0x4016 ∉ storedTo i s ++ readFrom i s → t.padSr0 = s.padSr0) ∧
    (0x4017 ∉ storedTo i s ++ readFrom i s → t.padSr1 = s.padSr1) ∧
    (0x4014 ∉ storedTo i s → t.dma = s.dma) ∧
    ((∀ w ∈ storedTo i s, w.toNat < 0x8000) → t.cart.mapper = s.cart.mapper ∧ t.cart.prg = s.cart.prg)

/-! ### Addressing and the bus -/

/-- The effective address and the extra-cycle signal of each memory mode, from the operand fetched, the index registers and page 0
(R135, R136, R137, R139 to R141, R143, R144 after their operand reads). No mode changes the state. -/
def Obligations.EffectiveAddresses : Prop :=
  ∀ (s : State) (z : Byte) (w : Word),
    effectiveAddr (.zp0 z) s = .ok (BitVec.ofNat 16 z.toNat, false, s) ∧
    effectiveAddr (.zpx z) s = .ok (BitVec.ofNat 16 ((z.toNat + s.x.toNat) % 256), false, s) ∧
    effectiveAddr (.zpy z) s = .ok (BitVec.ofNat 16 ((z.toNat + s.y.toNat) % 256), false, s) ∧
    effectiveAddr (.abs w) s = .ok (w, false, s) ∧
    effectiveAddr (.abx w) s =
      .ok (BitVec.ofNat 16 ((w.toNat + s.x.toNat) % 65536), decide (256 ≤ w.toNat % 256 + s.x.toNat), s) ∧
    effectiveAddr (.aby w) s =
      .ok (BitVec.ofNat 16 ((w.toNat + s.y.toNat) % 65536), decide (256 ≤ w.toNat % 256 + s.y.toNat), s) ∧
    effectiveAddr (.izx z) s =
      .ok (s.ram.read ((z.toNat + s.x.toNat + 1) % 256) ++ s.ram.read ((z.toNat + s.x.toNat) % 256), false, s) ∧
    (∀ lo hi, lo = s.ram.read z.toNat → hi = s.ram.read ((z.toNat + 1) % 256) →
      effectiveAddr (.izy z) s =
        .ok (BitVec.ofNat 16 ((hi.toNat * 256 + lo.toNat + s.y.toNat) % 65536), decide (256 ≤ lo.toNat + s.y.toNat), s))

/-- R145: an operand in memory is the one byte read at the effective address; the read's own side effect happens once, and no other
register changes. An immediate operand is the byte itself (R134); that it is read with the operand bytes in the fetch, so that no
further read is made here, is the model's choice (log 21). A read answers whenever no cartridge access can be out of range. -/
def Obligations.OperandFetch : Prop :=
  ∀ s : State,
    (∀ b, readOperand (.imm b) s = .ok (b, false, { s with addrAbs := s.pc - 1, fetched := b })) ∧
    (∀ m b t, busRead (addrOf m s).1 s = .ok (b, t) →
      readOperand (.mem m) s = .ok (b, (addrOf m s).2, { t with addrAbs := (addrOf m s).1, fetched := b })) ∧
    (s.cart.inRange → ∀ a, ∃ b t, busRead a s = .ok (b, t) ∧
      t = { s with ppu := t.ppu, padSr0 := t.padSr0, padSr1 := t.padSr1 } ∧
      t.ppu = { s.ppu with status := t.ppu.status, w := t.ppu.w, v := t.ppu.v, dataBuffer := t.ppu.dataBuffer })

namespace Sys2Proof.Claims

/-- The eight ports in the order of 20_memory.md R90. -/
def ports : List PpuPort := [.ctrl, .mask, .status, .oamAddr, .oamData, .scroll, .addr, .data]

/-- The offset of a mapper-range address in PRG (20_memory.md R112). -/
def prgIndex (c : Cart) (a : Word) : Nat := if c.prgBanks > 1 then a.toNat % 32768 else a.toNat % 16384

end Sys2Proof.Claims

/-- R80, R82, R83, R84, R88: a bus read, by region: RAM mirrored every 2048 bytes, the ports every 8, the two controllers (their bits
are the spec's own decision D13), open bus as 0x00 (0x4014 included), and PRG through the mapper. -/
def Obligations.BusReadsByRegion : Prop :=
  ∀ (s : State) (a : Word),
    (a.toNat ≤ 0x1FFF → busRead a s = .ok (s.ram.read (a.toNat % 2048), s)) ∧
    (0x2000 ≤ a.toNat → a.toNat ≤ 0x3FFF → ∀ p b q, ports[a.toNat % 8]? = some p → ppuPortRead s.cart p s.ppu = .ok (b, q) →
      busRead a s = .ok (b, { s with ppu := q })) ∧
    (a = 0x4016 → busRead a s = .ok (if s.padSr0.getLsbD 7 then 0x01 else 0x00, { s with padSr0 := s.padSr0 <<< 1 })) ∧
    (a = 0x4017 → busRead a s = .ok (if s.padSr1.getLsbD 7 then 0x01 else 0x00, { s with padSr1 := s.padSr1 <<< 1 })) ∧
    (0x4000 ≤ a.toNat → a.toNat ≤ 0x7FFF → a ≠ 0x4016 → a ≠ 0x4017 → busRead a s = .ok (0x00, s)) ∧
    (0x8000 ≤ a.toNat → 1 ≤ s.cart.prgBanks → busRead a s = .ok (s.cart.prg.read (prgIndex s.cart a), s))

/-- R81, R85, R86, R88, R112, R114: a bus write, by region: RAM, the ports, the DMA start, the controllers' snapshots (the data byte
ignored), open bus unchanged, and the mapper: PRG under NROM, the 2-bit bank register under CNROM. The controllers' protocol is the
spec's own decision D13, the store into PRG its decision D19. That the snapshot is a free value of the controller, M and the number of
resets so far is the model's choice (log 3). -/
def Obligations.BusWritesByRegion : Prop :=
  ∀ (s : State) (a : Word) (v : Byte),
    (a.toNat ≤ 0x1FFF → busWrite a v s = .ok { s with ram := s.ram.write (a.toNat % 2048) v }) ∧
    (0x2000 ≤ a.toNat → a.toNat ≤ 0x3FFF → ∀ p c q, ports[a.toNat % 8]? = some p → ppuPortWrite s.cart p s.ppu v = .ok (c, q) →
      busWrite a v s = .ok { s with cart := c, ppu := q }) ∧
    (a = 0x4014 → busWrite a v s =
      .ok { s with dma := { page := v, offset := 0, data := s.dma.data, align := true, active := true } }) ∧
    (a = 0x4016 → busWrite a v s = .ok { s with padSr0 := Config.pad 0 s.resets s.master }) ∧
    (a = 0x4017 → busWrite a v s = .ok { s with padSr1 := Config.pad 1 s.resets s.master }) ∧
    (0x4000 ≤ a.toNat → a.toNat ≤ 0x7FFF → a ≠ 0x4014 → a ≠ 0x4016 → a ≠ 0x4017 → busWrite a v s = .ok s) ∧
    (0x8000 ≤ a.toNat → 1 ≤ s.cart.prgBanks → s.cart.mapper = .nrom →
      busWrite a v s = .ok { s with cart := { s.cart with prg := s.cart.prg.write (prgIndex s.cart a) v } }) ∧
    (0x8000 ≤ a.toNat → ∀ bank, s.cart.mapper = .cnrom bank →
      busWrite a v s = .ok { s with cart := { s.cart with mapper := .cnrom (BitVec.ofNat 2 (v.toNat % 4)) } })

/-- R116 (that the model stops there is the spec's own decision D36): with a program bank, a bus read stops the machine exactly when
it is a PPUDATA read of a pattern address under a CNROM bank number at or beyond the number of CHR banks, and a bus write never does.
An instruction stops exactly when it reads its operand or jump pointer at such an address. -/
def Obligations.CartridgeStopIsExactly : Prop :=
  ∀ (s : State) (a : Word), 1 ≤ s.cart.prgBanks →
    (busRead a s = .error (.fault .cartOffsetOutOfRange) ↔
      locate s.cart a = .port .data ∧ s.ppu.v.toNat % 16384 ≤ 0x1FFF ∧
        ∃ bank, s.cart.mapper = .cnrom bank ∧ max 1 s.cart.chrBanks ≤ bank.toNat) ∧
    (∀ e, busRead a s = .error e → e = .fault .cartOffsetOutOfRange) ∧
    (∀ v, ∃ t, busWrite a v s = .ok t) ∧
    (∀ i, exec i s = .fault .cartOffsetOutOfRange ↔ ∃ w ∈ readFrom i s, busRead w s = .error (.fault .cartOffsetOutOfRange))

/-! ### PPU ports and PPU memory -/

/-- R91 to R94: the port reads: 0x00 from the write-only ports, PPUSTATUS with its clearing, OAMDATA, and PPUDATA through its buffer
with the palette at once and `v` moved on. The zero of the write-only ports and the low bits of PPUSTATUS are the spec's own decision
D14, OAMADDR as it was D15, the buffer after a palette read D16. -/
def Obligations.PortReads : Prop :=
  ∀ (c : Cart) (q : Ppu),
    (∀ p ∈ [PpuPort.ctrl, .mask, .oamAddr, .scroll, .addr], ppuPortRead c p q = .ok (0x00, q)) ∧
    (∃ st, (∀ i, st.getLsbD i = (q.status.getLsbD i && i != 7)) ∧
      ppuPortRead c .status q = .ok ((q.status &&& 0xE0) ||| (q.dataBuffer &&& 0x1F), { q with status := st, w := false })) ∧
    ppuPortRead c .oamData q = .ok (q.oam.read q.oamAddr.toNat, q) ∧
    (∀ b, ppuRead c q (BitVec.ofNat 16 (q.v.toNat % 16384)) = .ok b →
      ppuPortRead c .data q = .ok (if 0x3F00 ≤ q.v.toNat % 16384 then b else q.dataBuffer,
        { q with dataBuffer := b, v := q.v + (if q.ctrl.getLsbD 2 then 32 else 1) }))

/-- R95 to R101: the port writes, bit by bit for the loopy registers. OAMADDR's increment is the spec's own decision D15, and no NMI
request from a PPUCTRL write its decision D27. -/
def Obligations.PortWrites : Prop :=
  ∀ (c : Cart) (q : Ppu) (d : Byte),
    (∃ t : BitVec 15, (∀ i, t.getLsbD i = if i = 10 then d.getLsbD 0 else if i = 11 then d.getLsbD 1 else q.t.getLsbD i) ∧
      ppuPortWrite c .ctrl q d = .ok (c, { q with ctrl := d, t := t })) ∧
    ppuPortWrite c .mask q d = .ok (c, { q with mask := d }) ∧
    ppuPortWrite c .status q d = .ok (c, q) ∧
    ppuPortWrite c .oamAddr q d = .ok (c, { q with oamAddr := d }) ∧
    ppuPortWrite c .oamData q d = .ok (c, { q with oam := q.oam.write q.oamAddr.toNat d, oamAddr := q.oamAddr + 1 }) ∧
    (q.w = false → ∃ (t : BitVec 15) (fx : BitVec 3), (∀ i, t.getLsbD i = if i < 5 then d.getLsbD (i + 3) else q.t.getLsbD i) ∧
      (∀ i, fx.getLsbD i = (d.getLsbD i && decide (i < 3))) ∧
      ppuPortWrite c .scroll q d = .ok (c, { q with t := t, fineX := fx, w := true })) ∧
    (q.w = true → ∃ t : BitVec 15, (∀ i, t.getLsbD i =
        if 12 ≤ i ∧ i < 15 then d.getLsbD (i - 12) else if 5 ≤ i ∧ i < 10 then d.getLsbD (i - 2) else q.t.getLsbD i) ∧
      ppuPortWrite c .scroll q d = .ok (c, { q with t := t, w := false })) ∧
    (q.w = false → ∃ t : BitVec 15, (∀ i, t.getLsbD i =
        if i < 8 then q.t.getLsbD i else decide (i < 14) && d.getLsbD (i - 8)) ∧
      ppuPortWrite c .addr q d = .ok (c, { q with t := t, w := true })) ∧
    (q.w = true → ∃ t : BitVec 15, (∀ i, t.getLsbD i = if i < 8 then d.getLsbD i else q.t.getLsbD i) ∧
      ppuPortWrite c .addr q d = .ok (c, { q with t := t, v := t, w := false })) ∧
    (∀ c' q', ppuWrite c q (BitVec.ofNat 16 (q.v.toNat % 16384)) d = .ok (c', q') →
      ppuPortWrite c .data q d = .ok (c', { q' with v := q.v + (if q.ctrl.getLsbD 2 then 32 else 1) }))

namespace Sys2Proof.Claims

/-- The byte of nametable or palette memory that a PPU address from 0x2000 up names: the table (2 for the palette) and the offset
(20_memory.md R107, R108). -/
def videoCell (m : Mirroring) (a : Word) : Nat × Nat :=
  let n := a.toNat % 16384
  if n ≤ 0x3EFF then
    (match m with | .vertical => n / 1024 % 2 | .horizontal => n / 2048 % 2, n % 1024)
  else (2, if n % 4 = 0 then n % 16 else n % 32)

end Sys2Proof.Claims

/-- R105, R107, R108, R109, R110: reading PPU memory after one write, both at addresses from 0x2000 up (taken to 14 bits): the byte
written where the addresses name the same byte, with its mask in the palette, and the byte as before elsewhere. The mask 0x3F is the
spec's own decision D28, the 14 bits its decision D31. -/
def Obligations.VideoMemoryReadsBack : Prop :=
  ∀ (c : Cart) (q : Ppu) (a a' : Word) (d : Byte), 0x2000 ≤ a.toNat % 16384 → 0x2000 ≤ a'.toNat % 16384 →
    ∃ q', ppuWrite c q a d = .ok (c, q') ∧ q'.mask = q.mask ∧
      (videoCell c.mirroring a' = videoCell c.mirroring a →
        ppuRead c q' a' = .ok (if a'.toNat % 16384 ≤ 0x3EFF then d else d &&& (if q.mask.getLsbD 0 then 0x30 else 0x3F))) ∧
      (videoCell c.mirroring a' ≠ videoCell c.mirroring a → ppuRead c q' a' = ppuRead c q a')

/-- R106, R113, R115: the pattern region. Reads come from CHR, at the bank's offset under CNROM. Writes change CHR under NROM; under
CNROM they land in the internal tables, which no read returns. Both are the spec's own decisions, D19 and D20. -/
def Obligations.PatternMemory : Prop :=
  ∀ (c : Cart) (q : Ppu) (a a' : Word) (d : Byte), c.inRange → a.toNat ≤ 0x1FFF → a'.toNat ≤ 0x1FFF →
    (c.mapper = .nrom → ppuRead c q a = .ok (c.chr.read a.toNat) ∧
      ppuWrite c q a d = .ok ({ c with chr := c.chr.write a.toNat d }, q)) ∧
    (∀ bank, c.mapper = .cnrom bank → ppuRead c q a = .ok (c.chr.read (bank.toNat * 0x2000 + a.toNat)) ∧
      ∃ q', ppuWrite c q a d = .ok (c, q') ∧ ppuRead c q' a' = ppuRead c q a' ∧
        (a.toNat < 0x1000 → q' = { q with pt0 := q.pt0.write a.toNat d }) ∧
        (0x1000 ≤ a.toNat → q' = { q with pt1 := q.pt1.write (a.toNat - 0x1000) d }))

namespace Sys2Proof.Claims

/-- `n` reads of one address: the bytes in order, and the state after them. -/
def readMany (a : Word) : Nat → State → Run (List Byte × State)
  | 0, s => .ok ([], s)
  | n + 1, s => do
    let (b, s) ← busRead a s
    let (l, s) ← readMany a n s
    .ok (b :: l, s)

end Sys2Proof.Claims

/-- R84, R85: after a write of anything to a controller's address, any number of reads of it give the host's snapshot of that moment,
bit 7 first, and after eight reads 0x00. The protocol is the spec's own decision D13; the snapshot is the free value of log 3. -/
def Obligations.ControllerShiftsOutSnapshot : Prop :=
  ∀ (i : Fin 2) (a : Word) (v : Byte) (s : State) (n : Nat), a = (if i = 0 then 0x4016 else 0x4017) →
    ∃ t u, busWrite a v s = .ok t ∧ readMany a n t =
      .ok ((List.range n).map (fun k => if k < 8 ∧ (Config.pad i s.resets s.master).getLsbD (7 - k) then 0x01 else 0x00), u)

/-! ### PPU timing and pipelines -/

/-- R362, with R361's odd-frame skip: where one PPU cycle takes the two counters, the parity and the frame signal. -/
def Obligations.PpuCountersAdvance : Prop :=
  ∀ (c : Cart) (q q' : Ppu), ppuClock c q = .ok q' → -1 ≤ q.scanline → q.scanline ≤ 260 → q.cycle ≤ 340 →
    ∀ n : Nat, n = (if q.scanline = 0 ∧ q.cycle = 0 ∧ q.oddFrame = true ∧ (q.mask.getLsbD 3 || q.mask.getLsbD 4) = true
        then 1 else q.cycle) + 1 →
      (n ≤ 340 → q'.cycle = n ∧ q'.scanline = q.scanline ∧ q'.oddFrame = q.oddFrame ∧ q'.frameComplete = q.frameComplete) ∧
      (n = 341 → q'.cycle = 0 ∧
        (q.scanline < 260 → q'.scanline = q.scanline + 1 ∧ q'.oddFrame = q.oddFrame ∧ q'.frameComplete = q.frameComplete) ∧
        (q.scanline = 260 → q'.scanline = -1 ∧ q'.oddFrame = !q.oddFrame ∧ q'.frameComplete = true))

namespace Sys2Proof.Claims

/-- `n` cycles of the PPU alone. -/
def ppuCycles (c : Cart) : Nat → Ppu → Run Ppu
  | 0, q => .ok q
  | n + 1, q => ppuClock c q >>= ppuCycles c n

/-- How many PPU cycles into a frame the counters are, counted from scanline -1 cycle 0. -/
def beam (q : Ppu) : Int := (q.scanline + 1) * 341 + q.cycle

end Sys2Proof.Claims

/-- With rendering disabled the PPU has a period of 89342 cycles: `n` cycles move the beam by `n` modulo 89342, and the parity flips
once for each frame wrapped (60_exceptions.md R362). -/
def Obligations.FramePeriod : Prop :=
  ∀ (c : Cart) (q : Ppu) (n : Nat), c.inRange → (q.mask.getLsbD 3 || q.mask.getLsbD 4) = false →
    -1 ≤ q.scanline → q.scanline ≤ 260 → q.cycle ≤ 340 →
    ∃ q', ppuCycles c n q = .ok q' ∧ beam q' = (beam q + n) % 89342 ∧
      (q'.oddFrame = q.oddFrame ↔ (beam q + n) / 89342 % 2 = 0)

/-- Rendering never writes video memory, nor the registers that only ports write (60_exceptions.md R404). It moves `v` at the cycles
of R361 only (the phase of the increment is the spec's own decision D38), with the increments and transfers of `ScrollUpdates`, and
not at all with rendering disabled (R385 to R388). It raises no NMI request but at scanline 241 cycle 1 with NMI enabled (R371). -/
def Obligations.RenderingFrame : Prop :=
  ∀ (c : Cart) (q q' : Ppu), ppuClock c q = .ok q' →
    q'.nt0 = q.nt0 ∧ q'.nt1 = q.nt1 ∧ q'.pt0 = q.pt0 ∧ q'.pt1 = q.pt1 ∧ q'.pal = q.pal ∧ q'.oam = q.oam ∧
    q'.ctrl = q.ctrl ∧ q'.mask = q.mask ∧ q'.oamAddr = q.oamAddr ∧ q'.t = q.t ∧ q'.fineX = q.fineX ∧ q'.w = q.w ∧
    q'.dataBuffer = q.dataBuffer ∧ ((q.mask.getLsbD 3 || q.mask.getLsbD 4) = false → q'.v = q.v) ∧
    q'.v = (if -1 ≤ q.scanline ∧ q.scanline ≤ 239 then
        if q.scanline = -1 ∧ 280 ≤ q.cycle ∧ q.cycle ≤ 304 then (transferY q).v
        else if q.cycle = 256 then (incrementY (incrementX q)).v
        else if q.cycle = 257 then (transferX q).v
        else if q.cycle % 8 = 0 ∧ (8 ≤ q.cycle ∧ q.cycle ≤ 248 ∨ q.cycle = 328 ∨ q.cycle = 336) then (incrementX q).v
        else q.v
      else q.v) ∧
    q'.nmiReq = (q.nmiReq || (decide (q.scanline = 241) && decide (q.cycle = 1) && q.ctrl.getLsbD 7))

/-- R32, R370, R371, R391, R402: where the three status flags change in a PPU cycle. All three are 0 after
the pre-render clear. Vertical blank becomes 1 only at scanline 241 cycle
1 and 0 only at the pre-render clear. The sprite-zero hit becomes 1 only with both kinds of rendering on, from cycle 1 to 257, and 0
only at the clear. Sprite overflow becomes 1 only at an evaluation, and 0 only at one or at the clear. The clear's place is the spec's
own decision D37, the hit's cycles D23, the flag's assignment at an evaluation D22. -/
def Obligations.StatusFlagLifetimes : Prop :=
  ∀ (c : Cart) (q q' : Ppu), ppuClock c q = .ok q' →
    (q.scanline = 241 ∧ q.cycle = 1 → q'.status.getLsbD 7 = true) ∧
    (q.scanline = -1 ∧ q.cycle = 1 →
      q'.status.getLsbD 7 = false ∧ q'.status.getLsbD 6 = false ∧ q'.status.getLsbD 5 = false) ∧
    (q'.status.getLsbD 7 ≠ q.status.getLsbD 7 → q.cycle = 1 ∧ (q.scanline = 241 ∨ q.scanline = -1)) ∧
    (q.status.getLsbD 6 = true → q'.status.getLsbD 6 = false → q.scanline = -1 ∧ q.cycle = 1) ∧
    (q.status.getLsbD 6 = false → q'.status.getLsbD 6 = true →
      q.mask.getLsbD 3 = true ∧ q.mask.getLsbD 4 = true ∧ q'.spr0Possible = true ∧ q'.spr0Rendering = true ∧
        q.cycle ≤ 257 ∧ (1 ≤ q.cycle ∨ q.scanline = 0)) ∧
    (q'.status.getLsbD 5 ≠ q.status.getLsbD 5 →
      (q.cycle = 257 ∧ 0 ≤ q.scanline ∧ q.scanline ≤ 239) ∨ (q.scanline = -1 ∧ q.cycle = 1)) ∧
    (∀ i < 5, q'.status.getLsbD i = q.status.getLsbD i)

namespace Sys2Proof.Claims

/-- The lines with a render step (60_exceptions.md R360). -/
def onRenderLine (q : Ppu) : Prop := -1 ≤ q.scanline ∧ q.scanline ≤ 239

/-- The cycles in which the shifters move and tiles are fetched (60_exceptions.md R361). -/
def inTileWindow (q : Ppu) : Prop := onRenderLine q ∧ (2 ≤ q.cycle ∧ q.cycle ≤ 257 ∨ 321 ≤ q.cycle ∧ q.cycle ≤ 337)

/-- A background shifter after a PPU cycle: moved up by one where background rendering is on (R384), and its low byte replaced by the
next tile's at the first phase (R383). -/
def shifterAfter (q : Ppu) (old : BitVec 16) (low : Byte) (new : BitVec 16) : Prop :=
  (¬inTileWindow q → new = old) ∧
  (inTileWindow q → ∀ n, n = (if q.mask.getLsbD 3 then 2 * old.toNat % 65536 else old.toNat) →
    new.toNat = if (q.cycle - 1) % 8 = 0 then n / 256 * 256 + low.toNat else n)

end Sys2Proof.Claims

/-- R361, R380 to R384: the background pipeline in a PPU cycle. In the tile window the four shifters move and are loaded, and each latch
is fetched at its phase, from the nametable byte, the attribute byte's quadrant and the two pattern planes that `v` and the tile
number select; the nametable byte is fetched at cycles 338 and 340 too; at all other cycles nothing changes. The phases are the spec's
own decision D38, the fetches with rendering disabled its decision D39. -/
def Obligations.BackgroundPipeline : Prop :=
  ∀ (c : Cart) (q q' : Ppu), ppuClock c q = .ok q' → ∀ k v : Nat, k = (q.cycle - 1) % 8 → v = q.v.toNat →
    shifterAfter q q.bgPatLo q.ntLsb q'.bgPatLo ∧ shifterAfter q q.bgPatHi q.ntMsb q'.bgPatHi ∧
    shifterAfter q q.bgAttLo (if q.ntAttr.getLsbD 0 then 0xFF else 0x00) q'.bgAttLo ∧
    shifterAfter q q.bgAttHi (if q.ntAttr.getLsbD 1 then 0xFF else 0x00) q'.bgAttHi ∧
    ((inTileWindow q ∧ k = 0) ∨ (onRenderLine q ∧ (q.cycle = 338 ∨ q.cycle = 340)) →
      ppuRead c q (BitVec.ofNat 16 (0x2000 + v % 4096)) = .ok q'.ntId) ∧
    (inTileWindow q ∧ k = 2 → ∃ b,
      ppuRead c q (BitVec.ofNat 16 (0x23C0 + v / 1024 % 4 * 1024 + v / 128 % 8 * 8 + v / 4 % 8)) = .ok b ∧
      q'.ntAttr.toNat = b.toNat / (if v / 64 % 2 = 1 then 16 else 1) / (if v / 2 % 2 = 1 then 4 else 1) % 4) ∧
    (∀ a, a = (q.ctrl.getLsbD 4).toNat * 4096 + q.ntId.toNat * 16 + v / 4096 →
      (inTileWindow q ∧ k = 4 → ppuRead c q (BitVec.ofNat 16 a) = .ok q'.ntLsb) ∧
      (inTileWindow q ∧ k = 6 → ppuRead c q (BitVec.ofNat 16 (a + 8)) = .ok q'.ntMsb)) ∧
    (¬(inTileWindow q ∧ k = 0) → ¬(onRenderLine q ∧ (q.cycle = 338 ∨ q.cycle = 340)) → q'.ntId = q.ntId) ∧
    (¬(inTileWindow q ∧ k = 2) → q'.ntAttr = q.ntAttr) ∧ (¬(inTileWindow q ∧ k = 4) → q'.ntLsb = q.ntLsb) ∧
    (¬(inTileWindow q ∧ k = 6) → q'.ntMsb = q.ntMsb)

/-- R361, R370, R384, R390, R392: the sprite slots in a PPU cycle. The pre-render clear zeroes the count and the shifters. Cycle 257 of a
visible line is an evaluation (`SpriteEvaluation` says of what). Cycle 340 fetches the pattern of each selected slot (`SpriteFetch`).
In cycles 2 to 257 with sprite rendering on, each selected slot's counter falls, or at 0 its shifters move. Nothing else changes a
slot, the count or `spr0_possible`. The clear's place is the spec's own decision D37, of the count D45, the evaluation with rendering
disabled D39. -/
def Obligations.SpritePipeline : Prop :=
  ∀ (c : Cart) (q q' : Ppu), ppuClock c q = .ok q' →
    (q.scanline = -1 ∧ q.cycle = 1 → q'.sprCount = 0 ∧ q'.spr0Possible = q.spr0Possible ∧
      q'.spr = q.spr.map (fun s => { s with patLo := 0, patHi := 0 })) ∧
    (0 ≤ q.scanline ∧ q.scanline ≤ 239 ∧ q.cycle = 257 → q'.spr = (spriteEvaluate q).spr ∧
      q'.sprCount = (spriteEvaluate q).sprCount ∧ q'.spr0Possible = (spriteEvaluate q).spr0Possible ∧
      q'.status.getLsbD 5 = (spriteEvaluate q).status.getLsbD 5) ∧
    (¬(q.scanline = -1 ∧ q.cycle = 1) → ¬(0 ≤ q.scanline ∧ q.scanline ≤ 239 ∧ q.cycle = 257) →
      q'.sprCount = q.sprCount ∧ q'.spr0Possible = q.spr0Possible ∧ q'.spr.length = q.spr.length ∧
      ∀ (i : Nat) (s s' : SpriteSlot), q.spr[i]? = some s → q'.spr[i]? = some s' →
        (i < q.sprCount.val → onRenderLine q → q.cycle = 340 → fetchSprite c q s = .ok s') ∧
        (i < q.sprCount.val → onRenderLine q → 2 ≤ q.cycle → q.cycle ≤ 257 → q.mask.getLsbD 4 = true →
          s' = if s.x = 0 then { s with patLo := BitVec.ofNat 8 (2 * s.patLo.toNat), patHi := BitVec.ofNat 8 (2 * s.patHi.toNat) }
            else { s with x := s.x - 1 }) ∧
        (q.sprCount.val ≤ i ∨ ¬onRenderLine q ∨
            ¬(q.cycle = 340 ∨ 2 ≤ q.cycle ∧ q.cycle ≤ 257 ∧ q.mask.getLsbD 4 = true) → s' = s))

/-- R385 to R388: the scroll updates of `v`, bit by bit, with rendering enabled; with it disabled none changes anything. -/
def Obligations.ScrollUpdates : Prop :=
  ∀ q : Ppu,
    ((q.mask.getLsbD 3 || q.mask.getLsbD 4) = false →
      incrementX q = q ∧ incrementY q = q ∧ transferX q = q ∧ transferY q = q) ∧
    ((q.mask.getLsbD 3 || q.mask.getLsbD 4) = true →
      (∃ v : BitVec 15, incrementX q = { q with v := v } ∧ v.toNat % 32 = (q.v.toNat + 1) % 32 ∧
        v.getLsbD 10 = (q.v.getLsbD 10 ^^ decide (q.v.toNat % 32 = 31)) ∧
        ∀ i, 5 ≤ i → i ≠ 10 → v.getLsbD i = q.v.getLsbD i) ∧
      (∃ v : BitVec 15, incrementY q = { q with v := v } ∧ v.toNat / 4096 = (q.v.toNat / 4096 + 1) % 8 ∧
        (v.toNat / 32 % 32 =
          if q.v.toNat / 4096 < 7 then q.v.toNat / 32 % 32
          else if q.v.toNat / 32 % 32 = 29 then 0 else (q.v.toNat / 32 % 32 + 1) % 32) ∧
        v.getLsbD 11 = (q.v.getLsbD 11 ^^ decide (q.v.toNat / 4096 = 7 ∧ q.v.toNat / 32 % 32 = 29)) ∧
        v.toNat % 32 = q.v.toNat % 32 ∧ v.getLsbD 10 = q.v.getLsbD 10) ∧
      (∃ v : BitVec 15, transferX q = { q with v := v } ∧
        ∀ i, v.getLsbD i = if i < 5 ∨ i = 10 then q.t.getLsbD i else q.v.getLsbD i) ∧
      (∃ v : BitVec 15, transferY q = { q with v := v } ∧
        ∀ i, v.getLsbD i = if i < 5 ∨ i = 10 then q.v.getLsbD i else q.t.getLsbD i))

/-- R390, R391: sprite evaluation selects the sprites in range of the scanline, in the order of OAM and at most eight, with the other
slots empty; the overflow flag is exactly "a ninth is in range" (assigned at each evaluation: the spec's own decision D22), and no
other status bit changes. -/
def Obligations.SpriteEvaluation : Prop :=
  ∀ q : Ppu, ∀ found : List Nat,
    found = (List.range 64).filter (fun n => decide (0 ≤ q.scanline - (q.oam.read (4 * n)).toNat ∧
      q.scanline - (q.oam.read (4 * n)).toNat < if q.ctrl.getLsbD 5 then 16 else 8)) →
    ∃ st : Byte, (∀ i, st.getLsbD i = if i = 5 then decide (9 ≤ found.length) else q.status.getLsbD i) ∧
      (spriteEvaluate q).sprCount.val = min found.length 8 ∧
      spriteEvaluate q = { q with
        status := st
        sprCount := (spriteEvaluate q).sprCount
        spr0Possible := decide (0 ∈ found)
        spr := (found.take 8).map (fun n => { y := q.oam.read (4 * n), id := q.oam.read (4 * n + 1)
                                              attr := q.oam.read (4 * n + 2), x := q.oam.read (4 * n + 3), patLo := 0, patHi := 0 })
          ++ List.replicate (8 - min found.length 8)
            { y := 0xFF, id := 0xFF, attr := 0xFF, x := 0xFF, patLo := 0, patHi := 0 } }

/-- R392: the pattern fetch of one selected sprite, for the distances in range: the row's address in both sprite sizes, with vertical
flip, and the bytes reversed by horizontal flip. -/
def Obligations.SpriteFetch : Prop :=
  ∀ (c : Cart) (q : Ppu) (s : SpriteSlot) (d : Nat), c.inRange → q.scanline - s.y.toNat = d → d < (if q.ctrl.getLsbD 5 then 16 else 8) →
    ∀ a, a = (if q.ctrl.getLsbD 5 then
        s.id.toNat % 2 * 4096 + (s.id.toNat / 2 * 2 + (if (decide (8 ≤ d) ^^ s.attr.getLsbD 7) then 1 else 0)) * 16
          + (if s.attr.getLsbD 7 then 7 - d % 8 else d % 8)
      else (q.ctrl.getLsbD 3).toNat * 4096 + s.id.toNat * 16 + (if s.attr.getLsbD 7 then 7 - d else d)) →
    ∃ lo hi lo' hi' : Byte, ppuRead c q (BitVec.ofNat 16 a) = .ok lo ∧ ppuRead c q (BitVec.ofNat 16 (a + 8)) = .ok hi ∧
      (∀ i < 8, lo'.getLsbD i = lo.getLsbD (if s.attr.getLsbD 6 then 7 - i else i)) ∧
      (∀ i < 8, hi'.getLsbD i = hi.getLsbD (if s.attr.getLsbD 6 then 7 - i else i)) ∧
      fetchSprite c q s = .ok { s with patLo := lo', patHi := hi' }

/-- R402, R403: which of two pixels is shown, when the pair makes a sprite-zero hit (its columns are the spec's own decision D23), and
the palette entry the shown pixel selects. -/
def Obligations.PixelPriority : Prop :=
  ∀ (bp : BitVec 2) (bpal : BitVec 3) (f : Foreground) (q : Ppu),
    let r := priority (bp, bpal) f q
    (bp = 0 ∧ f.pixel = 0 → r = ((0, 0), q)) ∧
    (bp = 0 ∧ f.pixel ≠ 0 → r = ((f.pixel, f.palette), q)) ∧
    (bp ≠ 0 ∧ f.pixel = 0 → r = ((bp, bpal), q)) ∧
    (bp ≠ 0 ∧ f.pixel ≠ 0 → r.1 = (if f.front then (f.pixel, f.palette) else (bp, bpal)) ∧
      ∃ st : Byte, r.2 = { q with status := st } ∧ (∀ i, i ≠ 6 → st.getLsbD i = q.status.getLsbD i) ∧
        (st.getLsbD 6 = true ↔ q.status.getLsbD 6 = true ∨
          (q.spr0Possible = true ∧ q.spr0Rendering = true ∧ q.mask.getLsbD 3 = true ∧ q.mask.getLsbD 4 = true ∧
            q.cycle ≤ 257 ∧ (if q.mask.getLsbD 1 = true ∧ q.mask.getLsbD 2 = true then 1 else 9) ≤ q.cycle))) ∧
    (paletteAddr r.1).toNat = 0x3F00 + r.1.2.toNat * 4 + r.1.1.toNat

namespace Sys2Proof.Claims

/-- Slot `i` of the first `q.sprCount` has its counter at 0 and an opaque pixel (60_exceptions.md R401). -/
def showsAt (q : Ppu) (i : Nat) (s : SpriteSlot) : Prop :=
  i < q.sprCount.val ∧ q.spr[i]? = some s ∧ s.x = 0 ∧ (s.patLo.getLsbD 7 || s.patHi.getLsbD 7) = true

end Sys2Proof.Claims

/-- R400, R401, R403: the pixel of a PPU cycle. The background pixel and palette are the four shifters' bits that `fine_x` selects, and 0
where the background is not shown; the foreground is the first selected slot that shows an opaque pixel, which sets
`spr0_rendering` to whether it is slot 0. The pixel given to the host is the colour index that the resolved pair selects, at cycle - 1
and the scanline, with the emphasis bits. Every PPU cycle composes one pixel, with this cycle's shifters and slots and the flags before
the counters advance, on every line (the spec's own decisions D24, D40 and D44). That the call is held as `pixel` is the model's choice
(log 9). -/
def Obligations.PixelComposition : Prop :=
  (∀ q : Ppu,
    (q.mask.getLsbD 3 = false ∨ (q.mask.getLsbD 1 = false ∧ q.cycle < 9) → backgroundPixel q = (0, 0)) ∧
    (q.mask.getLsbD 3 = true → (q.mask.getLsbD 1 = true ∨ 9 ≤ q.cycle) → ∀ n, n = 15 - q.fineX.toNat →
      ((backgroundPixel q).1.toNat = (q.bgPatHi.getLsbD n).toNat * 2 + (q.bgPatLo.getLsbD n).toNat ∧
        (backgroundPixel q).2.toNat = (q.bgAttHi.getLsbD n).toNat * 2 + (q.bgAttLo.getLsbD n).toNat)) ∧
    (q.mask.getLsbD 4 = false ∨ (q.mask.getLsbD 2 = false ∧ q.cycle < 9) →
      (foregroundPixel q).1.pixel = 0 ∧ (foregroundPixel q).2 = q) ∧
    (q.mask.getLsbD 4 = true → (q.mask.getLsbD 2 = true ∨ 9 ≤ q.cycle) →
      ((∀ i s, ¬showsAt q i s) → (foregroundPixel q).1.pixel = 0 ∧ (foregroundPixel q).2 = { q with spr0Rendering := false }) ∧
      ∀ i s, showsAt q i s → (∀ j < i, ∀ s', ¬showsAt q j s') →
        (foregroundPixel q).1.pixel.toNat = (s.patHi.getLsbD 7).toNat * 2 + (s.patLo.getLsbD 7).toNat ∧
        (foregroundPixel q).1.palette.toNat = s.attr.toNat % 4 + 4 ∧ (foregroundPixel q).1.front = !s.attr.getLsbD 5 ∧
        (foregroundPixel q).2 = { q with spr0Rendering := decide (i = 0) })) ∧
  (∀ (c : Cart) (q q1 : Ppu) (r : BitVec 2 × BitVec 3), priority (backgroundPixel q) (foregroundPixel q).1 (foregroundPixel q).2 = (r, q1) →
    ∃ b, ppuRead c q (paletteAddr r) = .ok b ∧ composePixel c q = .ok { q1 with
      pixel := some { x := (q.cycle : Int) - 1, y := q.scanline, colourIndex := BitVec.ofNat 6 b.toNat,
                      emphasis := BitVec.ofNat 3 (q.mask.toNat / 32) } }) ∧
  ∀ (c : Cart) (q q' : Ppu), ppuClock c q = .ok q' → ∃ q1 q2 : Ppu,
    composePixel c q1 = .ok q2 ∧ q1.scanline = q.scanline ∧ q1.spr0Rendering = q.spr0Rendering ∧
    q1.cycle = (if q.scanline = 0 ∧ q.cycle = 0 ∧ q.oddFrame = true ∧ (q.mask.getLsbD 3 || q.mask.getLsbD 4) = true
      then 1 else q.cycle) ∧
    q1 = { q2 with status := q1.status, spr0Rendering := q1.spr0Rendering, pixel := q1.pixel } ∧
    q' = { q2 with cycle := q'.cycle, scanline := q'.scanline, oddFrame := q'.oddFrame, frameComplete := q'.frameComplete }

/-! ### Master clock, NMI delivery, DMA -/

/-- 60_exceptions.md R330, R331, R441, 20_memory.md R125: a step that is no CPU slot, with no vertical blank starting, is the IRQ call that
is due, if any, which leaves `s`, then the PPU's cycle and nothing else. Which steps are CPU slots is the spec's own decision D10. -/
def Obligations.StepOutsideCpuSlot : Prop :=
  ∀ (s0 s : State), IrqCalled s0 s → s.cart.inRange → s.master % 3 ≠ 0 → s.ppu.nmiReq = false →
    ¬(s.ppu.scanline = 241 ∧ s.ppu.cycle = 1 ∧ s.ppu.ctrl.getLsbD 7 = true) →
    ∃ q, ppuClock s.cart s.ppu = .ok q ∧ step s0 = .next { s with ppu := q, master := s.master + 1 }

/-- 60_exceptions.md R315, R330, R333, R371: the step in which vertical blank starts. The IRQ call that is due, if any, leaves `s`. Then
come the PPU's cycle, which sets the flag, and the CPU slot, if it is one: a DMA slot or a CPU cycle, which leaves `u`. With NMI disabled
the step ends there, in every slot, and no NMI is entered. With NMI enabled, whatever I and the DMA state hold, it ends with the NMI
entered on top of `u`: I set, the countdown 8, PC from the vector at 0xFFFA, the request cleared. -/
def Obligations.NmiEntersInTheVblankStep : Prop :=
  ∀ s0 s t : State, IrqCalled s0 s → s.ppu.scanline = 241 → s.ppu.cycle = 1 → s.ppu.nmiReq = false → 1 ≤ s.cart.prgBanks →
    step s0 = .next t →
    t.ppu.nmiReq = false ∧
    (s.ppu.ctrl.getLsbD 7 = true → t.flag .I = true ∧ t.cycles = 8 ∧ t.pc = prgWord t.cart 0xFFFA 0xFFFB) ∧
    ∃ q u, ppuClock s.cart s.ppu = .ok q ∧ q.status.getLsbD 7 = true ∧
      (s.master % 3 ≠ 0 → u = { s with ppu := q }) ∧
      (s.master % 3 = 0 → s.dma.active = true → dmaStep { s with ppu := q } = .ok u) ∧
      (s.master % 3 = 0 → s.dma.active = false → cpuClock { s with ppu := q } = .ok u) ∧
      (s.ppu.ctrl.getLsbD 7 = false → t = { u with master := s.master + 1 }) ∧
      (s.ppu.ctrl.getLsbD 7 = true →
        ∃ n, cpuNmi u = .ok n ∧ t = { n with ppu := { u.ppu with nmiReq := false }, master := s.master + 1 })

/-- 10_state.md R27, 60_exceptions.md R330, R332, R340, 40_dispatch.md R177: every step adds one to M and is no reset; `clock_count` rises by one exactly
in the CPU slots no DMA takes. In a step with a transfer running and no vertical blank starting, the CPU's registers, its countdown,
RAM and the cartridge are as the IRQ call that is due, if any, leaves them in `s`; and if it is a CPU slot, it is the PPU's cycle and
then one slot of the DMA engine, which waits, reads or writes by the parity of M (the spec's own decision D11; `clock_count` is its D8,
M's use its D10). -/
def Obligations.CountersAndDmaFreeze : Prop :=
  ∀ s0 s t : State, IrqCalled s0 s → step s0 = .next t →
    t.master = s0.master + 1 ∧
    t.resets = s0.resets ∧ t.clockCount = s0.clockCount + (if s0.master % 3 = 0 ∧ s0.dma.active = false then 1 else 0) ∧
    (s.dma.active = true → s.ppu.nmiReq = false →
      ¬(s.ppu.scanline = 241 ∧ s.ppu.cycle = 1 ∧ s.ppu.ctrl.getLsbD 7 = true) →
      SameRegisters s t ∧ t.cycles = s.cycles ∧ t.ram = s.ram ∧ t.cart = s.cart ∧ t.opcode = s.opcode ∧
      (s.master % 3 = 0 → ∃ q u, ppuClock s.cart s.ppu = .ok q ∧ dmaStep { s with ppu := q } = .ok u ∧
        t = { u with master := s.master + 1 } ∧
        (s.dma.align = true → u = { s with
          ppu := q, dma := { s.dma with align := decide (s.master % 2 = 1) == s.params.dmaReadOdd } }) ∧
        (s.dma.align = false → decide (s.master % 2 = 1) = s.params.dmaReadOdd →
          ∃ b r, busRead (s.dma.page ++ s.dma.offset) { s with ppu := q } = .ok (b, r) ∧ u = { r with dma := { s.dma with data := b } }) ∧
        (s.dma.align = false → decide (s.master % 2 = 1) ≠ s.params.dmaReadOdd → u = { s with
          ppu := { q with oam := q.oam.write s.dma.offset.toNat s.dma.data }
          dma := { s.dma with offset := s.dma.offset + 1, active := decide (s.dma.offset ≠ 0xFF) } })))

namespace Sys2Proof.Claims

/-- One DMA slot, and the move to the next CPU slot, three master steps later (60_exceptions.md R331). -/
def dmaSlot (s : State) : Run State := do
  let t ← dmaStep s
  .ok { t with master := t.master + 3 }

end Sys2Proof.Claims

/-- R340, R341: an OAM DMA transfer from a page of RAM or PRG. Started in a slot whose M does not have the parity of read slots it takes
513 slots, else 514; it is running in every slot before the last; it copies the page's 256 bytes to OAM in order; and the engine
changes nothing else, OAMADDR included. (R342: nothing but OAM, not the port.) The parities are the spec's own decision D11, reading the source through the bus its decision D12. -/
def Obligations.DmaTransfer : Prop :=
  ∀ (s : State) (src : Byte → Byte), s.dma.active = true → s.dma.align = true → s.dma.offset = 0 →
    (∀ k : Byte, peek s (s.dma.page ++ k) = some (src k)) →
    ∀ n, n = (if decide (s.master % 2 = 1) = s.params.dmaReadOdd then 514 else 513) →
      (∀ j < n, ∃ u, runTimes dmaSlot j s = .ok u ∧ u.dma.active = true) ∧
      ∃ t, runTimes dmaSlot n s = .ok t ∧ (∀ k : Byte, t.ppu.oam.read k.toNat = src k) ∧
        t = { s with
          ppu := { s.ppu with oam := t.ppu.oam }, master := s.master + 3 * n
          dma := { page := s.dma.page, offset := 0, data := src 0xFF, align := false, active := false } }

/-! ### The cartridge over a whole step -/

/-- R114, R115, 70_reset_and_hazards.md R465: under CNROM no step changes PRG or CHR, whatever it does; under either mapper no step
changes the bank counts, the mirroring or the kind of mapper. That CNROM claims no PPU write is the spec's own decision D20. -/
def Obligations.CartridgeOverAStep : Prop :=
  ∀ s t : State, step s = .next t →
    t.cart.prgBanks = s.cart.prgBanks ∧ t.cart.chrBanks = s.cart.chrBanks ∧ t.cart.mirroring = s.cart.mirroring ∧
    (s.cart.mapper = .nrom → t.cart.mapper = .nrom) ∧
    (∀ bank, s.cart.mapper = .cnrom bank →
      t.cart.prg = s.cart.prg ∧ t.cart.chr = s.cart.chr ∧ ∃ bank', t.cart.mapper = .cnrom bank')

/-! ### Reset, invariant, progress -/

/-- R450 to R453: what `Bus.reset()` leaves, from any state with a program bank, and what it keeps. The PPU's values are the spec's own
decision D17, the CPU's transient ones D9, `clock_count` kept D8, memories kept D18; the count of resets is the model's own field (log 3). -/
def Obligations.BusReset : Prop :=
  ∀ s : State, 1 ≤ s.cart.prgBanks → ∃ t, busReset s = .ok t ∧
    t.a = 0 ∧ t.x = 0 ∧ t.y = 0 ∧ t.sp = 0xFD ∧ t.p = 0x20 ∧ t.pc = prgWord s.cart 0xFFFC 0xFFFD ∧ t.opcode = 0 ∧
    t.addrAbs = 0 ∧ t.addrRel = 0 ∧ t.fetched = 0 ∧ t.cycles = 8 ∧ t.master = 0 ∧
    t.dma = { page := 0, offset := 0, data := 0, align := false, active := false } ∧
    (∀ bank, s.cart.mapper = .cnrom bank → t.cart = { s.cart with mapper := .cnrom 0 }) ∧
    (s.cart.mapper = .nrom → t.cart = s.cart) ∧
    t.resets = s.resets + 1 ∧ t.clockCount = s.clockCount ∧ t.ram = s.ram ∧ t.padSr0 = s.padSr0 ∧ t.padSr1 = s.padSr1 ∧
    t.ppu.ctrl = 0 ∧ t.ppu.mask = 0 ∧ t.ppu.status = 0 ∧ t.ppu.oamAddr = 0 ∧ t.ppu.v = 0 ∧ t.ppu.t = 0 ∧ t.ppu.fineX = 0 ∧
    t.ppu.w = false ∧ t.ppu.dataBuffer = 0 ∧ t.ppu.bgPatLo = 0 ∧ t.ppu.bgPatHi = 0 ∧ t.ppu.bgAttLo = 0 ∧ t.ppu.bgAttHi = 0 ∧
    t.ppu.ntId = 0 ∧ t.ppu.ntAttr = 0 ∧ t.ppu.ntLsb = 0 ∧ t.ppu.ntMsb = 0 ∧ t.ppu.sprCount = 0 ∧
    t.ppu.spr = List.replicate 8 { y := 0xFF, id := 0xFF, attr := 0xFF, x := 0xFF, patLo := 0, patHi := 0 } ∧
    t.ppu.spr0Possible = false ∧ t.ppu.spr0Rendering = false ∧ t.ppu.scanline = 0 ∧ t.ppu.cycle = 0 ∧
    t.ppu.oddFrame = false ∧ t.ppu.frameComplete = false ∧ t.ppu.nmiReq = false ∧
    t.ppu.nt0 = s.ppu.nt0 ∧ t.ppu.nt1 = s.ppu.nt1 ∧ t.ppu.pt0 = s.ppu.pt0 ∧ t.ppu.pt1 = s.ppu.pt1 ∧
    t.ppu.pal = s.ppu.pal ∧ t.ppu.oam = s.ppu.oam

/-- The reset state meets the invariant. Its cartridge and memory contents are the model's choice (logs 1 and 2). -/
def Obligations.ResetMeetsInvariant : Prop := State.reset.Inv

/-- Every launch, whatever the cartridge and the power-on memories, is a state that meets the invariant and whose cartridge answers
every access (R454); with no character bank declared, its CHR is one bank of zeros (00_scope.md R10, R16). -/
def Obligations.LaunchMeetsInvariant : Prop :=
  ∀ (l : LaunchParams) (s : State), launch l = .ok s → s.Inv ∧ s.cart.inRange ∧
    (l.chrBanks = 0 → s.cart.chrLen = 8192 ∧ ∀ n, s.cart.chr.read n = 0)

/-- Every step, from every state that meets the invariant, gives a state that meets it. -/
def Obligations.StepKeepsInvariant : Prop :=
  ∀ s t : State, s.Inv → step s = .next t → t.Inv

/-- R183: the dispatch is total: every instruction answers a next state in every state whose cartridge accesses cannot be out of range.
That an ill-formed `undef` term answers too is the model's choice (log 14). -/
def Obligations.EveryInstructionCompletes : Prop :=
  ∀ (i : Instr) (s : State), s.cart.inRange → ∃ t, exec i s = .next t

/-- With NROM, or CNROM with all four CHR banks, the machine never stops: every step, from every state, answers a next state whose
cartridge is again such a one. And no step, from any state, is refused: the one way a step can stop is the fault of R116. -/
def Obligations.MachineNeverStops : Prop :=
  (∀ s : State, s.cart.neverFaults → ∃ t, step s = .next t ∧ t.cart.neverFaults) ∧
  (∀ (s : State) (r : Refusal), step s ≠ .refused r)
end

