-- ==== Sys2Proof/Laws/State.lean ====
section
/-! SUPPORT. One lemma per field per update of State: what a `set` leaves in each field. -/

namespace Sys2Proof.Machine

variable (s : State)

@[simp] theorem State.setA_a (v : Byte) : (s.setA v).a = v := rfl
@[simp] theorem State.setA_x (v : Byte) : (s.setA v).x = s.x := rfl
@[simp] theorem State.setA_y (v : Byte) : (s.setA v).y = s.y := rfl
@[simp] theorem State.setA_sp (v : Byte) : (s.setA v).sp = s.sp := rfl
@[simp] theorem State.setA_pc (v : Byte) : (s.setA v).pc = s.pc := rfl
@[simp] theorem State.setA_p (v : Byte) : (s.setA v).p = s.p := rfl
@[simp] theorem State.setA_opcode (v : Byte) : (s.setA v).opcode = s.opcode := rfl
@[simp] theorem State.setA_addrAbs (v : Byte) : (s.setA v).addrAbs = s.addrAbs := rfl
@[simp] theorem State.setA_addrRel (v : Byte) : (s.setA v).addrRel = s.addrRel := rfl
@[simp] theorem State.setA_fetched (v : Byte) : (s.setA v).fetched = s.fetched := rfl
@[simp] theorem State.setA_cycles (v : Byte) : (s.setA v).cycles = s.cycles := rfl
@[simp] theorem State.setA_clockCount (v : Byte) : (s.setA v).clockCount = s.clockCount := rfl
@[simp] theorem State.setA_ram (v : Byte) : (s.setA v).ram = s.ram := rfl
@[simp] theorem State.setA_padSr0 (v : Byte) : (s.setA v).padSr0 = s.padSr0 := rfl
@[simp] theorem State.setA_padSr1 (v : Byte) : (s.setA v).padSr1 = s.padSr1 := rfl
@[simp] theorem State.setA_master (v : Byte) : (s.setA v).master = s.master := rfl
@[simp] theorem State.setA_dma (v : Byte) : (s.setA v).dma = s.dma := rfl
@[simp] theorem State.setA_ppu (v : Byte) : (s.setA v).ppu = s.ppu := rfl
@[simp] theorem State.setA_cart (v : Byte) : (s.setA v).cart = s.cart := rfl
@[simp] theorem State.setA_params (v : Byte) : (s.setA v).params = s.params := rfl
@[simp] theorem State.setA_irqEvents (v : Byte) : (s.setA v).irqEvents = s.irqEvents := rfl
@[simp] theorem State.setA_resets (v : Byte) : (s.setA v).resets = s.resets := rfl

@[simp] theorem State.setX_a (v : Byte) : (s.setX v).a = s.a := rfl
@[simp] theorem State.setX_x (v : Byte) : (s.setX v).x = v := rfl
@[simp] theorem State.setX_y (v : Byte) : (s.setX v).y = s.y := rfl
@[simp] theorem State.setX_sp (v : Byte) : (s.setX v).sp = s.sp := rfl
@[simp] theorem State.setX_pc (v : Byte) : (s.setX v).pc = s.pc := rfl
@[simp] theorem State.setX_p (v : Byte) : (s.setX v).p = s.p := rfl
@[simp] theorem State.setX_opcode (v : Byte) : (s.setX v).opcode = s.opcode := rfl
@[simp] theorem State.setX_addrAbs (v : Byte) : (s.setX v).addrAbs = s.addrAbs := rfl
@[simp] theorem State.setX_addrRel (v : Byte) : (s.setX v).addrRel = s.addrRel := rfl
@[simp] theorem State.setX_fetched (v : Byte) : (s.setX v).fetched = s.fetched := rfl
@[simp] theorem State.setX_cycles (v : Byte) : (s.setX v).cycles = s.cycles := rfl
@[simp] theorem State.setX_clockCount (v : Byte) : (s.setX v).clockCount = s.clockCount := rfl
@[simp] theorem State.setX_ram (v : Byte) : (s.setX v).ram = s.ram := rfl
@[simp] theorem State.setX_padSr0 (v : Byte) : (s.setX v).padSr0 = s.padSr0 := rfl
@[simp] theorem State.setX_padSr1 (v : Byte) : (s.setX v).padSr1 = s.padSr1 := rfl
@[simp] theorem State.setX_master (v : Byte) : (s.setX v).master = s.master := rfl
@[simp] theorem State.setX_dma (v : Byte) : (s.setX v).dma = s.dma := rfl
@[simp] theorem State.setX_ppu (v : Byte) : (s.setX v).ppu = s.ppu := rfl
@[simp] theorem State.setX_cart (v : Byte) : (s.setX v).cart = s.cart := rfl
@[simp] theorem State.setX_params (v : Byte) : (s.setX v).params = s.params := rfl
@[simp] theorem State.setX_irqEvents (v : Byte) : (s.setX v).irqEvents = s.irqEvents := rfl
@[simp] theorem State.setX_resets (v : Byte) : (s.setX v).resets = s.resets := rfl

@[simp] theorem State.setY_a (v : Byte) : (s.setY v).a = s.a := rfl
@[simp] theorem State.setY_x (v : Byte) : (s.setY v).x = s.x := rfl
@[simp] theorem State.setY_y (v : Byte) : (s.setY v).y = v := rfl
@[simp] theorem State.setY_sp (v : Byte) : (s.setY v).sp = s.sp := rfl
@[simp] theorem State.setY_pc (v : Byte) : (s.setY v).pc = s.pc := rfl
@[simp] theorem State.setY_p (v : Byte) : (s.setY v).p = s.p := rfl
@[simp] theorem State.setY_opcode (v : Byte) : (s.setY v).opcode = s.opcode := rfl
@[simp] theorem State.setY_addrAbs (v : Byte) : (s.setY v).addrAbs = s.addrAbs := rfl
@[simp] theorem State.setY_addrRel (v : Byte) : (s.setY v).addrRel = s.addrRel := rfl
@[simp] theorem State.setY_fetched (v : Byte) : (s.setY v).fetched = s.fetched := rfl
@[simp] theorem State.setY_cycles (v : Byte) : (s.setY v).cycles = s.cycles := rfl
@[simp] theorem State.setY_clockCount (v : Byte) : (s.setY v).clockCount = s.clockCount := rfl
@[simp] theorem State.setY_ram (v : Byte) : (s.setY v).ram = s.ram := rfl
@[simp] theorem State.setY_padSr0 (v : Byte) : (s.setY v).padSr0 = s.padSr0 := rfl
@[simp] theorem State.setY_padSr1 (v : Byte) : (s.setY v).padSr1 = s.padSr1 := rfl
@[simp] theorem State.setY_master (v : Byte) : (s.setY v).master = s.master := rfl
@[simp] theorem State.setY_dma (v : Byte) : (s.setY v).dma = s.dma := rfl
@[simp] theorem State.setY_ppu (v : Byte) : (s.setY v).ppu = s.ppu := rfl
@[simp] theorem State.setY_cart (v : Byte) : (s.setY v).cart = s.cart := rfl
@[simp] theorem State.setY_params (v : Byte) : (s.setY v).params = s.params := rfl
@[simp] theorem State.setY_irqEvents (v : Byte) : (s.setY v).irqEvents = s.irqEvents := rfl
@[simp] theorem State.setY_resets (v : Byte) : (s.setY v).resets = s.resets := rfl

@[simp] theorem State.setSp_a (v : Byte) : (s.setSp v).a = s.a := rfl
@[simp] theorem State.setSp_x (v : Byte) : (s.setSp v).x = s.x := rfl
@[simp] theorem State.setSp_y (v : Byte) : (s.setSp v).y = s.y := rfl
@[simp] theorem State.setSp_sp (v : Byte) : (s.setSp v).sp = v := rfl
@[simp] theorem State.setSp_pc (v : Byte) : (s.setSp v).pc = s.pc := rfl
@[simp] theorem State.setSp_p (v : Byte) : (s.setSp v).p = s.p := rfl
@[simp] theorem State.setSp_opcode (v : Byte) : (s.setSp v).opcode = s.opcode := rfl
@[simp] theorem State.setSp_addrAbs (v : Byte) : (s.setSp v).addrAbs = s.addrAbs := rfl
@[simp] theorem State.setSp_addrRel (v : Byte) : (s.setSp v).addrRel = s.addrRel := rfl
@[simp] theorem State.setSp_fetched (v : Byte) : (s.setSp v).fetched = s.fetched := rfl
@[simp] theorem State.setSp_cycles (v : Byte) : (s.setSp v).cycles = s.cycles := rfl
@[simp] theorem State.setSp_clockCount (v : Byte) : (s.setSp v).clockCount = s.clockCount := rfl
@[simp] theorem State.setSp_ram (v : Byte) : (s.setSp v).ram = s.ram := rfl
@[simp] theorem State.setSp_padSr0 (v : Byte) : (s.setSp v).padSr0 = s.padSr0 := rfl
@[simp] theorem State.setSp_padSr1 (v : Byte) : (s.setSp v).padSr1 = s.padSr1 := rfl
@[simp] theorem State.setSp_master (v : Byte) : (s.setSp v).master = s.master := rfl
@[simp] theorem State.setSp_dma (v : Byte) : (s.setSp v).dma = s.dma := rfl
@[simp] theorem State.setSp_ppu (v : Byte) : (s.setSp v).ppu = s.ppu := rfl
@[simp] theorem State.setSp_cart (v : Byte) : (s.setSp v).cart = s.cart := rfl
@[simp] theorem State.setSp_params (v : Byte) : (s.setSp v).params = s.params := rfl
@[simp] theorem State.setSp_irqEvents (v : Byte) : (s.setSp v).irqEvents = s.irqEvents := rfl
@[simp] theorem State.setSp_resets (v : Byte) : (s.setSp v).resets = s.resets := rfl

@[simp] theorem State.setPc_a (v : Word) : (s.setPc v).a = s.a := rfl
@[simp] theorem State.setPc_x (v : Word) : (s.setPc v).x = s.x := rfl
@[simp] theorem State.setPc_y (v : Word) : (s.setPc v).y = s.y := rfl
@[simp] theorem State.setPc_sp (v : Word) : (s.setPc v).sp = s.sp := rfl
@[simp] theorem State.setPc_pc (v : Word) : (s.setPc v).pc = v := rfl
@[simp] theorem State.setPc_p (v : Word) : (s.setPc v).p = s.p := rfl
@[simp] theorem State.setPc_opcode (v : Word) : (s.setPc v).opcode = s.opcode := rfl
@[simp] theorem State.setPc_addrAbs (v : Word) : (s.setPc v).addrAbs = s.addrAbs := rfl
@[simp] theorem State.setPc_addrRel (v : Word) : (s.setPc v).addrRel = s.addrRel := rfl
@[simp] theorem State.setPc_fetched (v : Word) : (s.setPc v).fetched = s.fetched := rfl
@[simp] theorem State.setPc_cycles (v : Word) : (s.setPc v).cycles = s.cycles := rfl
@[simp] theorem State.setPc_clockCount (v : Word) : (s.setPc v).clockCount = s.clockCount := rfl
@[simp] theorem State.setPc_ram (v : Word) : (s.setPc v).ram = s.ram := rfl
@[simp] theorem State.setPc_padSr0 (v : Word) : (s.setPc v).padSr0 = s.padSr0 := rfl
@[simp] theorem State.setPc_padSr1 (v : Word) : (s.setPc v).padSr1 = s.padSr1 := rfl
@[simp] theorem State.setPc_master (v : Word) : (s.setPc v).master = s.master := rfl
@[simp] theorem State.setPc_dma (v : Word) : (s.setPc v).dma = s.dma := rfl
@[simp] theorem State.setPc_ppu (v : Word) : (s.setPc v).ppu = s.ppu := rfl
@[simp] theorem State.setPc_cart (v : Word) : (s.setPc v).cart = s.cart := rfl
@[simp] theorem State.setPc_params (v : Word) : (s.setPc v).params = s.params := rfl
@[simp] theorem State.setPc_irqEvents (v : Word) : (s.setPc v).irqEvents = s.irqEvents := rfl
@[simp] theorem State.setPc_resets (v : Word) : (s.setPc v).resets = s.resets := rfl

@[simp] theorem State.setP_a (v : Byte) : (s.setP v).a = s.a := rfl
@[simp] theorem State.setP_x (v : Byte) : (s.setP v).x = s.x := rfl
@[simp] theorem State.setP_y (v : Byte) : (s.setP v).y = s.y := rfl
@[simp] theorem State.setP_sp (v : Byte) : (s.setP v).sp = s.sp := rfl
@[simp] theorem State.setP_pc (v : Byte) : (s.setP v).pc = s.pc := rfl
@[simp] theorem State.setP_p (v : Byte) : (s.setP v).p = v := rfl
@[simp] theorem State.setP_opcode (v : Byte) : (s.setP v).opcode = s.opcode := rfl
@[simp] theorem State.setP_addrAbs (v : Byte) : (s.setP v).addrAbs = s.addrAbs := rfl
@[simp] theorem State.setP_addrRel (v : Byte) : (s.setP v).addrRel = s.addrRel := rfl
@[simp] theorem State.setP_fetched (v : Byte) : (s.setP v).fetched = s.fetched := rfl
@[simp] theorem State.setP_cycles (v : Byte) : (s.setP v).cycles = s.cycles := rfl
@[simp] theorem State.setP_clockCount (v : Byte) : (s.setP v).clockCount = s.clockCount := rfl
@[simp] theorem State.setP_ram (v : Byte) : (s.setP v).ram = s.ram := rfl
@[simp] theorem State.setP_padSr0 (v : Byte) : (s.setP v).padSr0 = s.padSr0 := rfl
@[simp] theorem State.setP_padSr1 (v : Byte) : (s.setP v).padSr1 = s.padSr1 := rfl
@[simp] theorem State.setP_master (v : Byte) : (s.setP v).master = s.master := rfl
@[simp] theorem State.setP_dma (v : Byte) : (s.setP v).dma = s.dma := rfl
@[simp] theorem State.setP_ppu (v : Byte) : (s.setP v).ppu = s.ppu := rfl
@[simp] theorem State.setP_cart (v : Byte) : (s.setP v).cart = s.cart := rfl
@[simp] theorem State.setP_params (v : Byte) : (s.setP v).params = s.params := rfl
@[simp] theorem State.setP_irqEvents (v : Byte) : (s.setP v).irqEvents = s.irqEvents := rfl
@[simp] theorem State.setP_resets (v : Byte) : (s.setP v).resets = s.resets := rfl

@[simp] theorem State.setOpcode_a (v : Byte) : (s.setOpcode v).a = s.a := rfl
@[simp] theorem State.setOpcode_x (v : Byte) : (s.setOpcode v).x = s.x := rfl
@[simp] theorem State.setOpcode_y (v : Byte) : (s.setOpcode v).y = s.y := rfl
@[simp] theorem State.setOpcode_sp (v : Byte) : (s.setOpcode v).sp = s.sp := rfl
@[simp] theorem State.setOpcode_pc (v : Byte) : (s.setOpcode v).pc = s.pc := rfl
@[simp] theorem State.setOpcode_p (v : Byte) : (s.setOpcode v).p = s.p := rfl
@[simp] theorem State.setOpcode_opcode (v : Byte) : (s.setOpcode v).opcode = v := rfl
@[simp] theorem State.setOpcode_addrAbs (v : Byte) : (s.setOpcode v).addrAbs = s.addrAbs := rfl
@[simp] theorem State.setOpcode_addrRel (v : Byte) : (s.setOpcode v).addrRel = s.addrRel := rfl
@[simp] theorem State.setOpcode_fetched (v : Byte) : (s.setOpcode v).fetched = s.fetched := rfl
@[simp] theorem State.setOpcode_cycles (v : Byte) : (s.setOpcode v).cycles = s.cycles := rfl
@[simp] theorem State.setOpcode_clockCount (v : Byte) : (s.setOpcode v).clockCount = s.clockCount := rfl
@[simp] theorem State.setOpcode_ram (v : Byte) : (s.setOpcode v).ram = s.ram := rfl
@[simp] theorem State.setOpcode_padSr0 (v : Byte) : (s.setOpcode v).padSr0 = s.padSr0 := rfl
@[simp] theorem State.setOpcode_padSr1 (v : Byte) : (s.setOpcode v).padSr1 = s.padSr1 := rfl
@[simp] theorem State.setOpcode_master (v : Byte) : (s.setOpcode v).master = s.master := rfl
@[simp] theorem State.setOpcode_dma (v : Byte) : (s.setOpcode v).dma = s.dma := rfl
@[simp] theorem State.setOpcode_ppu (v : Byte) : (s.setOpcode v).ppu = s.ppu := rfl
@[simp] theorem State.setOpcode_cart (v : Byte) : (s.setOpcode v).cart = s.cart := rfl
@[simp] theorem State.setOpcode_params (v : Byte) : (s.setOpcode v).params = s.params := rfl
@[simp] theorem State.setOpcode_irqEvents (v : Byte) : (s.setOpcode v).irqEvents = s.irqEvents := rfl
@[simp] theorem State.setOpcode_resets (v : Byte) : (s.setOpcode v).resets = s.resets := rfl

@[simp] theorem State.setAddrAbs_a (v : Word) : (s.setAddrAbs v).a = s.a := rfl
@[simp] theorem State.setAddrAbs_x (v : Word) : (s.setAddrAbs v).x = s.x := rfl
@[simp] theorem State.setAddrAbs_y (v : Word) : (s.setAddrAbs v).y = s.y := rfl
@[simp] theorem State.setAddrAbs_sp (v : Word) : (s.setAddrAbs v).sp = s.sp := rfl
@[simp] theorem State.setAddrAbs_pc (v : Word) : (s.setAddrAbs v).pc = s.pc := rfl
@[simp] theorem State.setAddrAbs_p (v : Word) : (s.setAddrAbs v).p = s.p := rfl
@[simp] theorem State.setAddrAbs_opcode (v : Word) : (s.setAddrAbs v).opcode = s.opcode := rfl
@[simp] theorem State.setAddrAbs_addrAbs (v : Word) : (s.setAddrAbs v).addrAbs = v := rfl
@[simp] theorem State.setAddrAbs_addrRel (v : Word) : (s.setAddrAbs v).addrRel = s.addrRel := rfl
@[simp] theorem State.setAddrAbs_fetched (v : Word) : (s.setAddrAbs v).fetched = s.fetched := rfl
@[simp] theorem State.setAddrAbs_cycles (v : Word) : (s.setAddrAbs v).cycles = s.cycles := rfl
@[simp] theorem State.setAddrAbs_clockCount (v : Word) : (s.setAddrAbs v).clockCount = s.clockCount := rfl
@[simp] theorem State.setAddrAbs_ram (v : Word) : (s.setAddrAbs v).ram = s.ram := rfl
@[simp] theorem State.setAddrAbs_padSr0 (v : Word) : (s.setAddrAbs v).padSr0 = s.padSr0 := rfl
@[simp] theorem State.setAddrAbs_padSr1 (v : Word) : (s.setAddrAbs v).padSr1 = s.padSr1 := rfl
@[simp] theorem State.setAddrAbs_master (v : Word) : (s.setAddrAbs v).master = s.master := rfl
@[simp] theorem State.setAddrAbs_dma (v : Word) : (s.setAddrAbs v).dma = s.dma := rfl
@[simp] theorem State.setAddrAbs_ppu (v : Word) : (s.setAddrAbs v).ppu = s.ppu := rfl
@[simp] theorem State.setAddrAbs_cart (v : Word) : (s.setAddrAbs v).cart = s.cart := rfl
@[simp] theorem State.setAddrAbs_params (v : Word) : (s.setAddrAbs v).params = s.params := rfl
@[simp] theorem State.setAddrAbs_irqEvents (v : Word) : (s.setAddrAbs v).irqEvents = s.irqEvents := rfl
@[simp] theorem State.setAddrAbs_resets (v : Word) : (s.setAddrAbs v).resets = s.resets := rfl

@[simp] theorem State.setAddrRel_a (v : Word) : (s.setAddrRel v).a = s.a := rfl
@[simp] theorem State.setAddrRel_x (v : Word) : (s.setAddrRel v).x = s.x := rfl
@[simp] theorem State.setAddrRel_y (v : Word) : (s.setAddrRel v).y = s.y := rfl
@[simp] theorem State.setAddrRel_sp (v : Word) : (s.setAddrRel v).sp = s.sp := rfl
@[simp] theorem State.setAddrRel_pc (v : Word) : (s.setAddrRel v).pc = s.pc := rfl
@[simp] theorem State.setAddrRel_p (v : Word) : (s.setAddrRel v).p = s.p := rfl
@[simp] theorem State.setAddrRel_opcode (v : Word) : (s.setAddrRel v).opcode = s.opcode := rfl
@[simp] theorem State.setAddrRel_addrAbs (v : Word) : (s.setAddrRel v).addrAbs = s.addrAbs := rfl
@[simp] theorem State.setAddrRel_addrRel (v : Word) : (s.setAddrRel v).addrRel = v := rfl
@[simp] theorem State.setAddrRel_fetched (v : Word) : (s.setAddrRel v).fetched = s.fetched := rfl
@[simp] theorem State.setAddrRel_cycles (v : Word) : (s.setAddrRel v).cycles = s.cycles := rfl
@[simp] theorem State.setAddrRel_clockCount (v : Word) : (s.setAddrRel v).clockCount = s.clockCount := rfl
@[simp] theorem State.setAddrRel_ram (v : Word) : (s.setAddrRel v).ram = s.ram := rfl
@[simp] theorem State.setAddrRel_padSr0 (v : Word) : (s.setAddrRel v).padSr0 = s.padSr0 := rfl
@[simp] theorem State.setAddrRel_padSr1 (v : Word) : (s.setAddrRel v).padSr1 = s.padSr1 := rfl
@[simp] theorem State.setAddrRel_master (v : Word) : (s.setAddrRel v).master = s.master := rfl
@[simp] theorem State.setAddrRel_dma (v : Word) : (s.setAddrRel v).dma = s.dma := rfl
@[simp] theorem State.setAddrRel_ppu (v : Word) : (s.setAddrRel v).ppu = s.ppu := rfl
@[simp] theorem State.setAddrRel_cart (v : Word) : (s.setAddrRel v).cart = s.cart := rfl
@[simp] theorem State.setAddrRel_params (v : Word) : (s.setAddrRel v).params = s.params := rfl
@[simp] theorem State.setAddrRel_irqEvents (v : Word) : (s.setAddrRel v).irqEvents = s.irqEvents := rfl
@[simp] theorem State.setAddrRel_resets (v : Word) : (s.setAddrRel v).resets = s.resets := rfl

@[simp] theorem State.setFetched_a (v : Byte) : (s.setFetched v).a = s.a := rfl
@[simp] theorem State.setFetched_x (v : Byte) : (s.setFetched v).x = s.x := rfl
@[simp] theorem State.setFetched_y (v : Byte) : (s.setFetched v).y = s.y := rfl
@[simp] theorem State.setFetched_sp (v : Byte) : (s.setFetched v).sp = s.sp := rfl
@[simp] theorem State.setFetched_pc (v : Byte) : (s.setFetched v).pc = s.pc := rfl
@[simp] theorem State.setFetched_p (v : Byte) : (s.setFetched v).p = s.p := rfl
@[simp] theorem State.setFetched_opcode (v : Byte) : (s.setFetched v).opcode = s.opcode := rfl
@[simp] theorem State.setFetched_addrAbs (v : Byte) : (s.setFetched v).addrAbs = s.addrAbs := rfl
@[simp] theorem State.setFetched_addrRel (v : Byte) : (s.setFetched v).addrRel = s.addrRel := rfl
@[simp] theorem State.setFetched_fetched (v : Byte) : (s.setFetched v).fetched = v := rfl
@[simp] theorem State.setFetched_cycles (v : Byte) : (s.setFetched v).cycles = s.cycles := rfl
@[simp] theorem State.setFetched_clockCount (v : Byte) : (s.setFetched v).clockCount = s.clockCount := rfl
@[simp] theorem State.setFetched_ram (v : Byte) : (s.setFetched v).ram = s.ram := rfl
@[simp] theorem State.setFetched_padSr0 (v : Byte) : (s.setFetched v).padSr0 = s.padSr0 := rfl
@[simp] theorem State.setFetched_padSr1 (v : Byte) : (s.setFetched v).padSr1 = s.padSr1 := rfl
@[simp] theorem State.setFetched_master (v : Byte) : (s.setFetched v).master = s.master := rfl
@[simp] theorem State.setFetched_dma (v : Byte) : (s.setFetched v).dma = s.dma := rfl
@[simp] theorem State.setFetched_ppu (v : Byte) : (s.setFetched v).ppu = s.ppu := rfl
@[simp] theorem State.setFetched_cart (v : Byte) : (s.setFetched v).cart = s.cart := rfl
@[simp] theorem State.setFetched_params (v : Byte) : (s.setFetched v).params = s.params := rfl
@[simp] theorem State.setFetched_irqEvents (v : Byte) : (s.setFetched v).irqEvents = s.irqEvents := rfl
@[simp] theorem State.setFetched_resets (v : Byte) : (s.setFetched v).resets = s.resets := rfl

@[simp] theorem State.setCycles_a (v : Nat) : (s.setCycles v).a = s.a := rfl
@[simp] theorem State.setCycles_x (v : Nat) : (s.setCycles v).x = s.x := rfl
@[simp] theorem State.setCycles_y (v : Nat) : (s.setCycles v).y = s.y := rfl
@[simp] theorem State.setCycles_sp (v : Nat) : (s.setCycles v).sp = s.sp := rfl
@[simp] theorem State.setCycles_pc (v : Nat) : (s.setCycles v).pc = s.pc := rfl
@[simp] theorem State.setCycles_p (v : Nat) : (s.setCycles v).p = s.p := rfl
@[simp] theorem State.setCycles_opcode (v : Nat) : (s.setCycles v).opcode = s.opcode := rfl
@[simp] theorem State.setCycles_addrAbs (v : Nat) : (s.setCycles v).addrAbs = s.addrAbs := rfl
@[simp] theorem State.setCycles_addrRel (v : Nat) : (s.setCycles v).addrRel = s.addrRel := rfl
@[simp] theorem State.setCycles_fetched (v : Nat) : (s.setCycles v).fetched = s.fetched := rfl
@[simp] theorem State.setCycles_cycles (v : Nat) : (s.setCycles v).cycles = v := rfl
@[simp] theorem State.setCycles_clockCount (v : Nat) : (s.setCycles v).clockCount = s.clockCount := rfl
@[simp] theorem State.setCycles_ram (v : Nat) : (s.setCycles v).ram = s.ram := rfl
@[simp] theorem State.setCycles_padSr0 (v : Nat) : (s.setCycles v).padSr0 = s.padSr0 := rfl
@[simp] theorem State.setCycles_padSr1 (v : Nat) : (s.setCycles v).padSr1 = s.padSr1 := rfl
@[simp] theorem State.setCycles_master (v : Nat) : (s.setCycles v).master = s.master := rfl
@[simp] theorem State.setCycles_dma (v : Nat) : (s.setCycles v).dma = s.dma := rfl
@[simp] theorem State.setCycles_ppu (v : Nat) : (s.setCycles v).ppu = s.ppu := rfl
@[simp] theorem State.setCycles_cart (v : Nat) : (s.setCycles v).cart = s.cart := rfl
@[simp] theorem State.setCycles_params (v : Nat) : (s.setCycles v).params = s.params := rfl
@[simp] theorem State.setCycles_irqEvents (v : Nat) : (s.setCycles v).irqEvents = s.irqEvents := rfl
@[simp] theorem State.setCycles_resets (v : Nat) : (s.setCycles v).resets = s.resets := rfl

@[simp] theorem State.setClockCount_a (v : Nat) : (s.setClockCount v).a = s.a := rfl
@[simp] theorem State.setClockCount_x (v : Nat) : (s.setClockCount v).x = s.x := rfl
@[simp] theorem State.setClockCount_y (v : Nat) : (s.setClockCount v).y = s.y := rfl
@[simp] theorem State.setClockCount_sp (v : Nat) : (s.setClockCount v).sp = s.sp := rfl
@[simp] theorem State.setClockCount_pc (v : Nat) : (s.setClockCount v).pc = s.pc := rfl
@[simp] theorem State.setClockCount_p (v : Nat) : (s.setClockCount v).p = s.p := rfl
@[simp] theorem State.setClockCount_opcode (v : Nat) : (s.setClockCount v).opcode = s.opcode := rfl
@[simp] theorem State.setClockCount_addrAbs (v : Nat) : (s.setClockCount v).addrAbs = s.addrAbs := rfl
@[simp] theorem State.setClockCount_addrRel (v : Nat) : (s.setClockCount v).addrRel = s.addrRel := rfl
@[simp] theorem State.setClockCount_fetched (v : Nat) : (s.setClockCount v).fetched = s.fetched := rfl
@[simp] theorem State.setClockCount_cycles (v : Nat) : (s.setClockCount v).cycles = s.cycles := rfl
@[simp] theorem State.setClockCount_clockCount (v : Nat) : (s.setClockCount v).clockCount = v := rfl
@[simp] theorem State.setClockCount_ram (v : Nat) : (s.setClockCount v).ram = s.ram := rfl
@[simp] theorem State.setClockCount_padSr0 (v : Nat) : (s.setClockCount v).padSr0 = s.padSr0 := rfl
@[simp] theorem State.setClockCount_padSr1 (v : Nat) : (s.setClockCount v).padSr1 = s.padSr1 := rfl
@[simp] theorem State.setClockCount_master (v : Nat) : (s.setClockCount v).master = s.master := rfl
@[simp] theorem State.setClockCount_dma (v : Nat) : (s.setClockCount v).dma = s.dma := rfl
@[simp] theorem State.setClockCount_ppu (v : Nat) : (s.setClockCount v).ppu = s.ppu := rfl
@[simp] theorem State.setClockCount_cart (v : Nat) : (s.setClockCount v).cart = s.cart := rfl
@[simp] theorem State.setClockCount_params (v : Nat) : (s.setClockCount v).params = s.params := rfl
@[simp] theorem State.setClockCount_irqEvents (v : Nat) : (s.setClockCount v).irqEvents = s.irqEvents := rfl
@[simp] theorem State.setClockCount_resets (v : Nat) : (s.setClockCount v).resets = s.resets := rfl

@[simp] theorem State.setRam_a (v : Memory) : (s.setRam v).a = s.a := rfl
@[simp] theorem State.setRam_x (v : Memory) : (s.setRam v).x = s.x := rfl
@[simp] theorem State.setRam_y (v : Memory) : (s.setRam v).y = s.y := rfl
@[simp] theorem State.setRam_sp (v : Memory) : (s.setRam v).sp = s.sp := rfl
@[simp] theorem State.setRam_pc (v : Memory) : (s.setRam v).pc = s.pc := rfl
@[simp] theorem State.setRam_p (v : Memory) : (s.setRam v).p = s.p := rfl
@[simp] theorem State.setRam_opcode (v : Memory) : (s.setRam v).opcode = s.opcode := rfl
@[simp] theorem State.setRam_addrAbs (v : Memory) : (s.setRam v).addrAbs = s.addrAbs := rfl
@[simp] theorem State.setRam_addrRel (v : Memory) : (s.setRam v).addrRel = s.addrRel := rfl
@[simp] theorem State.setRam_fetched (v : Memory) : (s.setRam v).fetched = s.fetched := rfl
@[simp] theorem State.setRam_cycles (v : Memory) : (s.setRam v).cycles = s.cycles := rfl
@[simp] theorem State.setRam_clockCount (v : Memory) : (s.setRam v).clockCount = s.clockCount := rfl
@[simp] theorem State.setRam_ram (v : Memory) : (s.setRam v).ram = v := rfl
@[simp] theorem State.setRam_padSr0 (v : Memory) : (s.setRam v).padSr0 = s.padSr0 := rfl
@[simp] theorem State.setRam_padSr1 (v : Memory) : (s.setRam v).padSr1 = s.padSr1 := rfl
@[simp] theorem State.setRam_master (v : Memory) : (s.setRam v).master = s.master := rfl
@[simp] theorem State.setRam_dma (v : Memory) : (s.setRam v).dma = s.dma := rfl
@[simp] theorem State.setRam_ppu (v : Memory) : (s.setRam v).ppu = s.ppu := rfl
@[simp] theorem State.setRam_cart (v : Memory) : (s.setRam v).cart = s.cart := rfl
@[simp] theorem State.setRam_params (v : Memory) : (s.setRam v).params = s.params := rfl
@[simp] theorem State.setRam_irqEvents (v : Memory) : (s.setRam v).irqEvents = s.irqEvents := rfl
@[simp] theorem State.setRam_resets (v : Memory) : (s.setRam v).resets = s.resets := rfl

@[simp] theorem State.setPadSr0_a (v : Byte) : (s.setPadSr0 v).a = s.a := rfl
@[simp] theorem State.setPadSr0_x (v : Byte) : (s.setPadSr0 v).x = s.x := rfl
@[simp] theorem State.setPadSr0_y (v : Byte) : (s.setPadSr0 v).y = s.y := rfl
@[simp] theorem State.setPadSr0_sp (v : Byte) : (s.setPadSr0 v).sp = s.sp := rfl
@[simp] theorem State.setPadSr0_pc (v : Byte) : (s.setPadSr0 v).pc = s.pc := rfl
@[simp] theorem State.setPadSr0_p (v : Byte) : (s.setPadSr0 v).p = s.p := rfl
@[simp] theorem State.setPadSr0_opcode (v : Byte) : (s.setPadSr0 v).opcode = s.opcode := rfl
@[simp] theorem State.setPadSr0_addrAbs (v : Byte) : (s.setPadSr0 v).addrAbs = s.addrAbs := rfl
@[simp] theorem State.setPadSr0_addrRel (v : Byte) : (s.setPadSr0 v).addrRel = s.addrRel := rfl
@[simp] theorem State.setPadSr0_fetched (v : Byte) : (s.setPadSr0 v).fetched = s.fetched := rfl
@[simp] theorem State.setPadSr0_cycles (v : Byte) : (s.setPadSr0 v).cycles = s.cycles := rfl
@[simp] theorem State.setPadSr0_clockCount (v : Byte) : (s.setPadSr0 v).clockCount = s.clockCount := rfl
@[simp] theorem State.setPadSr0_ram (v : Byte) : (s.setPadSr0 v).ram = s.ram := rfl
@[simp] theorem State.setPadSr0_padSr0 (v : Byte) : (s.setPadSr0 v).padSr0 = v := rfl
@[simp] theorem State.setPadSr0_padSr1 (v : Byte) : (s.setPadSr0 v).padSr1 = s.padSr1 := rfl
@[simp] theorem State.setPadSr0_master (v : Byte) : (s.setPadSr0 v).master = s.master := rfl
@[simp] theorem State.setPadSr0_dma (v : Byte) : (s.setPadSr0 v).dma = s.dma := rfl
@[simp] theorem State.setPadSr0_ppu (v : Byte) : (s.setPadSr0 v).ppu = s.ppu := rfl
@[simp] theorem State.setPadSr0_cart (v : Byte) : (s.setPadSr0 v).cart = s.cart := rfl
@[simp] theorem State.setPadSr0_params (v : Byte) : (s.setPadSr0 v).params = s.params := rfl
@[simp] theorem State.setPadSr0_irqEvents (v : Byte) : (s.setPadSr0 v).irqEvents = s.irqEvents := rfl
@[simp] theorem State.setPadSr0_resets (v : Byte) : (s.setPadSr0 v).resets = s.resets := rfl

@[simp] theorem State.setPadSr1_a (v : Byte) : (s.setPadSr1 v).a = s.a := rfl
@[simp] theorem State.setPadSr1_x (v : Byte) : (s.setPadSr1 v).x = s.x := rfl
@[simp] theorem State.setPadSr1_y (v : Byte) : (s.setPadSr1 v).y = s.y := rfl
@[simp] theorem State.setPadSr1_sp (v : Byte) : (s.setPadSr1 v).sp = s.sp := rfl
@[simp] theorem State.setPadSr1_pc (v : Byte) : (s.setPadSr1 v).pc = s.pc := rfl
@[simp] theorem State.setPadSr1_p (v : Byte) : (s.setPadSr1 v).p = s.p := rfl
@[simp] theorem State.setPadSr1_opcode (v : Byte) : (s.setPadSr1 v).opcode = s.opcode := rfl
@[simp] theorem State.setPadSr1_addrAbs (v : Byte) : (s.setPadSr1 v).addrAbs = s.addrAbs := rfl
@[simp] theorem State.setPadSr1_addrRel (v : Byte) : (s.setPadSr1 v).addrRel = s.addrRel := rfl
@[simp] theorem State.setPadSr1_fetched (v : Byte) : (s.setPadSr1 v).fetched = s.fetched := rfl
@[simp] theorem State.setPadSr1_cycles (v : Byte) : (s.setPadSr1 v).cycles = s.cycles := rfl
@[simp] theorem State.setPadSr1_clockCount (v : Byte) : (s.setPadSr1 v).clockCount = s.clockCount := rfl
@[simp] theorem State.setPadSr1_ram (v : Byte) : (s.setPadSr1 v).ram = s.ram := rfl
@[simp] theorem State.setPadSr1_padSr0 (v : Byte) : (s.setPadSr1 v).padSr0 = s.padSr0 := rfl
@[simp] theorem State.setPadSr1_padSr1 (v : Byte) : (s.setPadSr1 v).padSr1 = v := rfl
@[simp] theorem State.setPadSr1_master (v : Byte) : (s.setPadSr1 v).master = s.master := rfl
@[simp] theorem State.setPadSr1_dma (v : Byte) : (s.setPadSr1 v).dma = s.dma := rfl
@[simp] theorem State.setPadSr1_ppu (v : Byte) : (s.setPadSr1 v).ppu = s.ppu := rfl
@[simp] theorem State.setPadSr1_cart (v : Byte) : (s.setPadSr1 v).cart = s.cart := rfl
@[simp] theorem State.setPadSr1_params (v : Byte) : (s.setPadSr1 v).params = s.params := rfl
@[simp] theorem State.setPadSr1_irqEvents (v : Byte) : (s.setPadSr1 v).irqEvents = s.irqEvents := rfl
@[simp] theorem State.setPadSr1_resets (v : Byte) : (s.setPadSr1 v).resets = s.resets := rfl

@[simp] theorem State.setMaster_a (v : Nat) : (s.setMaster v).a = s.a := rfl
@[simp] theorem State.setMaster_x (v : Nat) : (s.setMaster v).x = s.x := rfl
@[simp] theorem State.setMaster_y (v : Nat) : (s.setMaster v).y = s.y := rfl
@[simp] theorem State.setMaster_sp (v : Nat) : (s.setMaster v).sp = s.sp := rfl
@[simp] theorem State.setMaster_pc (v : Nat) : (s.setMaster v).pc = s.pc := rfl
@[simp] theorem State.setMaster_p (v : Nat) : (s.setMaster v).p = s.p := rfl
@[simp] theorem State.setMaster_opcode (v : Nat) : (s.setMaster v).opcode = s.opcode := rfl
@[simp] theorem State.setMaster_addrAbs (v : Nat) : (s.setMaster v).addrAbs = s.addrAbs := rfl
@[simp] theorem State.setMaster_addrRel (v : Nat) : (s.setMaster v).addrRel = s.addrRel := rfl
@[simp] theorem State.setMaster_fetched (v : Nat) : (s.setMaster v).fetched = s.fetched := rfl
@[simp] theorem State.setMaster_cycles (v : Nat) : (s.setMaster v).cycles = s.cycles := rfl
@[simp] theorem State.setMaster_clockCount (v : Nat) : (s.setMaster v).clockCount = s.clockCount := rfl
@[simp] theorem State.setMaster_ram (v : Nat) : (s.setMaster v).ram = s.ram := rfl
@[simp] theorem State.setMaster_padSr0 (v : Nat) : (s.setMaster v).padSr0 = s.padSr0 := rfl
@[simp] theorem State.setMaster_padSr1 (v : Nat) : (s.setMaster v).padSr1 = s.padSr1 := rfl
@[simp] theorem State.setMaster_master (v : Nat) : (s.setMaster v).master = v := rfl
@[simp] theorem State.setMaster_dma (v : Nat) : (s.setMaster v).dma = s.dma := rfl
@[simp] theorem State.setMaster_ppu (v : Nat) : (s.setMaster v).ppu = s.ppu := rfl
@[simp] theorem State.setMaster_cart (v : Nat) : (s.setMaster v).cart = s.cart := rfl
@[simp] theorem State.setMaster_params (v : Nat) : (s.setMaster v).params = s.params := rfl
@[simp] theorem State.setMaster_irqEvents (v : Nat) : (s.setMaster v).irqEvents = s.irqEvents := rfl
@[simp] theorem State.setMaster_resets (v : Nat) : (s.setMaster v).resets = s.resets := rfl

@[simp] theorem State.setDma_a (v : Dma) : (s.setDma v).a = s.a := rfl
@[simp] theorem State.setDma_x (v : Dma) : (s.setDma v).x = s.x := rfl
@[simp] theorem State.setDma_y (v : Dma) : (s.setDma v).y = s.y := rfl
@[simp] theorem State.setDma_sp (v : Dma) : (s.setDma v).sp = s.sp := rfl
@[simp] theorem State.setDma_pc (v : Dma) : (s.setDma v).pc = s.pc := rfl
@[simp] theorem State.setDma_p (v : Dma) : (s.setDma v).p = s.p := rfl
@[simp] theorem State.setDma_opcode (v : Dma) : (s.setDma v).opcode = s.opcode := rfl
@[simp] theorem State.setDma_addrAbs (v : Dma) : (s.setDma v).addrAbs = s.addrAbs := rfl
@[simp] theorem State.setDma_addrRel (v : Dma) : (s.setDma v).addrRel = s.addrRel := rfl
@[simp] theorem State.setDma_fetched (v : Dma) : (s.setDma v).fetched = s.fetched := rfl
@[simp] theorem State.setDma_cycles (v : Dma) : (s.setDma v).cycles = s.cycles := rfl
@[simp] theorem State.setDma_clockCount (v : Dma) : (s.setDma v).clockCount = s.clockCount := rfl
@[simp] theorem State.setDma_ram (v : Dma) : (s.setDma v).ram = s.ram := rfl
@[simp] theorem State.setDma_padSr0 (v : Dma) : (s.setDma v).padSr0 = s.padSr0 := rfl
@[simp] theorem State.setDma_padSr1 (v : Dma) : (s.setDma v).padSr1 = s.padSr1 := rfl
@[simp] theorem State.setDma_master (v : Dma) : (s.setDma v).master = s.master := rfl
@[simp] theorem State.setDma_dma (v : Dma) : (s.setDma v).dma = v := rfl
@[simp] theorem State.setDma_ppu (v : Dma) : (s.setDma v).ppu = s.ppu := rfl
@[simp] theorem State.setDma_cart (v : Dma) : (s.setDma v).cart = s.cart := rfl
@[simp] theorem State.setDma_params (v : Dma) : (s.setDma v).params = s.params := rfl
@[simp] theorem State.setDma_irqEvents (v : Dma) : (s.setDma v).irqEvents = s.irqEvents := rfl
@[simp] theorem State.setDma_resets (v : Dma) : (s.setDma v).resets = s.resets := rfl

@[simp] theorem State.setPpu_a (v : Ppu) : (s.setPpu v).a = s.a := rfl
@[simp] theorem State.setPpu_x (v : Ppu) : (s.setPpu v).x = s.x := rfl
@[simp] theorem State.setPpu_y (v : Ppu) : (s.setPpu v).y = s.y := rfl
@[simp] theorem State.setPpu_sp (v : Ppu) : (s.setPpu v).sp = s.sp := rfl
@[simp] theorem State.setPpu_pc (v : Ppu) : (s.setPpu v).pc = s.pc := rfl
@[simp] theorem State.setPpu_p (v : Ppu) : (s.setPpu v).p = s.p := rfl
@[simp] theorem State.setPpu_opcode (v : Ppu) : (s.setPpu v).opcode = s.opcode := rfl
@[simp] theorem State.setPpu_addrAbs (v : Ppu) : (s.setPpu v).addrAbs = s.addrAbs := rfl
@[simp] theorem State.setPpu_addrRel (v : Ppu) : (s.setPpu v).addrRel = s.addrRel := rfl
@[simp] theorem State.setPpu_fetched (v : Ppu) : (s.setPpu v).fetched = s.fetched := rfl
@[simp] theorem State.setPpu_cycles (v : Ppu) : (s.setPpu v).cycles = s.cycles := rfl
@[simp] theorem State.setPpu_clockCount (v : Ppu) : (s.setPpu v).clockCount = s.clockCount := rfl
@[simp] theorem State.setPpu_ram (v : Ppu) : (s.setPpu v).ram = s.ram := rfl
@[simp] theorem State.setPpu_padSr0 (v : Ppu) : (s.setPpu v).padSr0 = s.padSr0 := rfl
@[simp] theorem State.setPpu_padSr1 (v : Ppu) : (s.setPpu v).padSr1 = s.padSr1 := rfl
@[simp] theorem State.setPpu_master (v : Ppu) : (s.setPpu v).master = s.master := rfl
@[simp] theorem State.setPpu_dma (v : Ppu) : (s.setPpu v).dma = s.dma := rfl
@[simp] theorem State.setPpu_ppu (v : Ppu) : (s.setPpu v).ppu = v := rfl
@[simp] theorem State.setPpu_cart (v : Ppu) : (s.setPpu v).cart = s.cart := rfl
@[simp] theorem State.setPpu_params (v : Ppu) : (s.setPpu v).params = s.params := rfl
@[simp] theorem State.setPpu_irqEvents (v : Ppu) : (s.setPpu v).irqEvents = s.irqEvents := rfl
@[simp] theorem State.setPpu_resets (v : Ppu) : (s.setPpu v).resets = s.resets := rfl

@[simp] theorem State.setCart_a (v : Cart) : (s.setCart v).a = s.a := rfl
@[simp] theorem State.setCart_x (v : Cart) : (s.setCart v).x = s.x := rfl
@[simp] theorem State.setCart_y (v : Cart) : (s.setCart v).y = s.y := rfl
@[simp] theorem State.setCart_sp (v : Cart) : (s.setCart v).sp = s.sp := rfl
@[simp] theorem State.setCart_pc (v : Cart) : (s.setCart v).pc = s.pc := rfl
@[simp] theorem State.setCart_p (v : Cart) : (s.setCart v).p = s.p := rfl
@[simp] theorem State.setCart_opcode (v : Cart) : (s.setCart v).opcode = s.opcode := rfl
@[simp] theorem State.setCart_addrAbs (v : Cart) : (s.setCart v).addrAbs = s.addrAbs := rfl
@[simp] theorem State.setCart_addrRel (v : Cart) : (s.setCart v).addrRel = s.addrRel := rfl
@[simp] theorem State.setCart_fetched (v : Cart) : (s.setCart v).fetched = s.fetched := rfl
@[simp] theorem State.setCart_cycles (v : Cart) : (s.setCart v).cycles = s.cycles := rfl
@[simp] theorem State.setCart_clockCount (v : Cart) : (s.setCart v).clockCount = s.clockCount := rfl
@[simp] theorem State.setCart_ram (v : Cart) : (s.setCart v).ram = s.ram := rfl
@[simp] theorem State.setCart_padSr0 (v : Cart) : (s.setCart v).padSr0 = s.padSr0 := rfl
@[simp] theorem State.setCart_padSr1 (v : Cart) : (s.setCart v).padSr1 = s.padSr1 := rfl
@[simp] theorem State.setCart_master (v : Cart) : (s.setCart v).master = s.master := rfl
@[simp] theorem State.setCart_dma (v : Cart) : (s.setCart v).dma = s.dma := rfl
@[simp] theorem State.setCart_ppu (v : Cart) : (s.setCart v).ppu = s.ppu := rfl
@[simp] theorem State.setCart_cart (v : Cart) : (s.setCart v).cart = v := rfl
@[simp] theorem State.setCart_params (v : Cart) : (s.setCart v).params = s.params := rfl
@[simp] theorem State.setCart_irqEvents (v : Cart) : (s.setCart v).irqEvents = s.irqEvents := rfl
@[simp] theorem State.setCart_resets (v : Cart) : (s.setCart v).resets = s.resets := rfl

@[simp] theorem State.setResets_a (v : Nat) : (s.setResets v).a = s.a := rfl
@[simp] theorem State.setResets_x (v : Nat) : (s.setResets v).x = s.x := rfl
@[simp] theorem State.setResets_y (v : Nat) : (s.setResets v).y = s.y := rfl
@[simp] theorem State.setResets_sp (v : Nat) : (s.setResets v).sp = s.sp := rfl
@[simp] theorem State.setResets_pc (v : Nat) : (s.setResets v).pc = s.pc := rfl
@[simp] theorem State.setResets_p (v : Nat) : (s.setResets v).p = s.p := rfl
@[simp] theorem State.setResets_opcode (v : Nat) : (s.setResets v).opcode = s.opcode := rfl
@[simp] theorem State.setResets_addrAbs (v : Nat) : (s.setResets v).addrAbs = s.addrAbs := rfl
@[simp] theorem State.setResets_addrRel (v : Nat) : (s.setResets v).addrRel = s.addrRel := rfl
@[simp] theorem State.setResets_fetched (v : Nat) : (s.setResets v).fetched = s.fetched := rfl
@[simp] theorem State.setResets_cycles (v : Nat) : (s.setResets v).cycles = s.cycles := rfl
@[simp] theorem State.setResets_clockCount (v : Nat) : (s.setResets v).clockCount = s.clockCount := rfl
@[simp] theorem State.setResets_ram (v : Nat) : (s.setResets v).ram = s.ram := rfl
@[simp] theorem State.setResets_padSr0 (v : Nat) : (s.setResets v).padSr0 = s.padSr0 := rfl
@[simp] theorem State.setResets_padSr1 (v : Nat) : (s.setResets v).padSr1 = s.padSr1 := rfl
@[simp] theorem State.setResets_master (v : Nat) : (s.setResets v).master = s.master := rfl
@[simp] theorem State.setResets_dma (v : Nat) : (s.setResets v).dma = s.dma := rfl
@[simp] theorem State.setResets_ppu (v : Nat) : (s.setResets v).ppu = s.ppu := rfl
@[simp] theorem State.setResets_cart (v : Nat) : (s.setResets v).cart = s.cart := rfl
@[simp] theorem State.setResets_params (v : Nat) : (s.setResets v).params = s.params := rfl
@[simp] theorem State.setResets_irqEvents (v : Nat) : (s.setResets v).irqEvents = s.irqEvents := rfl
@[simp] theorem State.setResets_resets (v : Nat) : (s.setResets v).resets = v := rfl

end Sys2Proof.Machine
end

