-- ==== Sys2Proof/Laws/Flags.lean ====
section
/-! SUPPORT. What each flag computation leaves in each flag. -/

namespace Sys2Proof.Machine

/-- A bit of a byte after `setBit`. -/
theorem getLsbD_setBit (v : Byte) {i j : Nat} (hi : i < 8) (b : Bool) :
    (setBit v i b).getLsbD j = if j = i then b else v.getLsbD j := by
  by_cases hj : j < 8
  · have key : ∀ i < 8, ∀ j < 8, ((~~~(1#8 <<< i)).getLsbD j = !decide (j = i)) ∧ (1#8 <<< i).getLsbD j = decide (j = i) := by
      decide
    obtain ⟨h1, h2⟩ := key i hi j hj
    unfold setBit
    cases b <;> by_cases h : j = i <;> simp_all
  · have hji : j ≠ i := by omega
    simp [BitVec.getLsbD_of_ge, hji, Nat.le_of_not_lt hj]

theorem Flag.pos_lt (f : Flag) : f.pos < 8 := by cases f <;> decide

theorem Flag.pos_inj {f g : Flag} : f.pos = g.pos ↔ f = g := by cases f <;> cases g <;> decide

/-- A flag after one flag is written: the value written, or the flag as it was. -/
@[simp] theorem flagOf_withFlag (p : Byte) (f g : Flag) (b : Bool) :
    flagOf (withFlag p f b) g = if g = f then b else flagOf p g := by
  simp [flagOf, withFlag, getLsbD_setBit p (Flag.pos_lt f), Flag.pos_inj]

/-- Two status bytes with the same flags are equal. -/
theorem flags_ext {p q : Byte} (h : ∀ f, flagOf p f = flagOf q f) : p = q := by
  apply BitVec.eq_of_getLsbD_eq
  intro i hi
  have h0 := h .C; have h1 := h .Z; have h2 := h .I; have h3 := h .D
  have h4 := h .B; have h5 := h .U; have h6 := h .V; have h7 := h .N
  simp only [flagOf, Flag.pos] at h0 h1 h2 h3 h4 h5 h6 h7
  have : i = 0 ∨ i = 1 ∨ i = 2 ∨ i = 3 ∨ i = 4 ∨ i = 5 ∨ i = 6 ∨ i = 7 := by omega
  rcases this with rfl | rfl | rfl | rfl | rfl | rfl | rfl | rfl <;> assumption

/-- The flags after `setZN`. -/
theorem flagOf_znByte (p v : Byte) (f : Flag) :
    flagOf (znByte p v) f = match f with
      | .Z => v == 0
      | .N => v.getLsbD 7
      | f => flagOf p f := by
  cases f <;> simp [znByte]

/-- The flags after ADC. -/
theorem flagOf_adcFlags (p a m : Byte) (c : Bool) (f : Flag) :
    flagOf (adcFlags p a m c) f = match f with
      | .C => decide (adcSum a m c > 0xFF)
      | .V => adcOverflow a m c
      | .Z => adcResult a m c == 0
      | .N => (adcResult a m c).getLsbD 7
      | f => flagOf p f := by
  cases f <;> simp [adcFlags, flagOf_znByte]

/-- The flags after a compare. -/
theorem flagOf_compareFlags (p r m : Byte) (f : Flag) :
    flagOf (compareFlags p r m) f = match f with
      | .C => decide (m.toNat ≤ r.toNat)
      | .Z => r == m
      | .N => (r - m).getLsbD 7
      | f => flagOf p f := by
  cases f <;> simp [compareFlags]

/-- The flags after BIT. -/
theorem flagOf_bitFlags (p a m : Byte) (f : Flag) :
    flagOf (bitFlags p a m) f = match f with
      | .Z => (a &&& m) == 0
      | .N => m.getLsbD 7
      | .V => m.getLsbD 6
      | f => flagOf p f := by
  cases f <;> simp [bitFlags]

/-- The flags after a shift. -/
theorem flagOf_shiftFlags (p r : Byte) (c : Bool) (f : Flag) :
    flagOf (shiftFlags p r c) f = match f with
      | .C => c
      | .Z => r == 0
      | .N => r.getLsbD 7
      | f => flagOf p f := by
  cases f <;> simp [shiftFlags, flagOf_znByte]

/-- The flags of the status byte PHP and BRK push. -/
theorem flagOf_pushedStatus (p : Byte) (f : Flag) :
    flagOf (pushedStatus p) f = match f with
      | .B => true
      | .U => true
      | f => flagOf p f := by
  cases f <;> simp [flagOf, pushedStatus, Flag.pos]

/-- The flags of the status byte IRQ and NMI push. -/
theorem flagOf_interruptStatus (p : Byte) (f : Flag) :
    flagOf (interruptStatus p) f = match f with
      | .B => false
      | .U => true
      | f => flagOf p f := by
  cases f <;> simp [interruptStatus]

/-- The flags of P after a pull. -/
theorem flagOf_pulledStatus (p : Byte) (f : Flag) :
    flagOf (pulledStatus p) f = match f with
      | .B => false
      | .U => true
      | f => flagOf p f := by
  cases f <;> simp [flagOf, pulledStatus, Flag.pos]

@[simp] theorem State.flag_setP (s : State) (v : Byte) (f : Flag) : (s.setP v).flag f = flagOf v f := rfl

end Sys2Proof.Machine
end

