-- ==== Sys2Proof/Laws/Memory.lean ====
section
/-! SUPPORT. The laws of one memory: reading after writing, and that writing keeps the canonical form. -/

namespace Sys2Proof.Machine

@[simp] theorem Memory.read_nil (i : Nat) : Memory.read [] i = 0x00 := rfl

theorem Memory.read_erase (m : Memory) (i j : Nat) :
    Memory.read (Memory.erase m i) j = if j = i then 0 else Memory.read m j := by
  induction m with
  | nil => simp [Memory.erase]
  | cons e m ih =>
    obtain ⟨k, v⟩ := e
    by_cases hk : k = i <;> by_cases hj : j = i <;> by_cases hkj : k = j <;>
      simp_all [Memory.erase, Memory.read]

theorem Memory.read_insert_same (m : Memory) (i : Nat) (b : Byte) (h : Memory.read m i = 0) (hm : ∀ e ∈ m, e.1 ≠ i) :
    Memory.read (Memory.insert m i b) i = b := by
  induction m with
  | nil => simp [Memory.insert, Memory.read]
  | cons e m ih =>
    obtain ⟨k, v⟩ := e
    have hk : k ≠ i := hm (k, v) (by simp)
    have hm' : ∀ e ∈ m, e.1 ≠ i := fun e he => hm e (by simp [he])
    simp only [Memory.insert]
    split
    · simp [Memory.read]
    · simp only [Memory.read, if_neg hk] at h ⊢
      exact ih h hm'

theorem Memory.read_insert_ne (m : Memory) (i j : Nat) (b : Byte) (h : j ≠ i) :
    Memory.read (Memory.insert m i b) j = Memory.read m j := by
  induction m with
  | nil => simp [Memory.insert, Memory.read, Ne.symm h, Memory.background]
  | cons e m ih =>
    obtain ⟨k, v⟩ := e
    simp only [Memory.insert]
    split
    · simp [Memory.read, Ne.symm h]
    · simp only [Memory.read, ih]

theorem Memory.erase_not_mem (m : Memory) (i : Nat) : ∀ e ∈ Memory.erase m i, e.1 ≠ i := by
  induction m with
  | nil => simp [Memory.erase]
  | cons e m ih =>
    obtain ⟨k, v⟩ := e
    simp only [Memory.erase]
    split
    · exact ih
    · intro e he
      rcases List.mem_cons.1 he with rfl | he
      · assumption
      · exact ih e he

/-- A read after a write, at every offset: the byte written at its offset, every other offset as before. -/
theorem Memory.read_write (m : Memory) (i j : Nat) (b : Byte) :
    Memory.read (Memory.write m i b) j = if j = i then b else Memory.read m j := by
  unfold Memory.write
  split
  · rename_i hb
    rw [Memory.read_erase, hb]; rfl
  · by_cases hj : j = i
    · subst hj
      rw [Memory.read_insert_same _ _ _ (by simp [Memory.read_erase]) (Memory.erase_not_mem m j), if_pos rfl]
    · simp [Memory.read_insert_ne _ _ _ _ hj, Memory.read_erase, hj]

@[simp] theorem Memory.read_write_same (m : Memory) (i : Nat) (b : Byte) : Memory.read (Memory.write m i b) i = b := by
  simp [Memory.read_write]

theorem Memory.read_write_ne (m : Memory) {i j : Nat} (b : Byte) (h : j ≠ i) :
    Memory.read (Memory.write m i b) j = Memory.read m j := by
  simp [Memory.read_write, h]

theorem Memory.wfFrom_mono {size lo lo' : Nat} {m : Memory} (hlo : lo' ≤ lo) (h : Memory.wfFrom size lo m = true) :
    Memory.wfFrom size lo' m = true := by
  cases m with
  | nil => rfl
  | cons e m =>
    obtain ⟨k, v⟩ := e
    simp only [Memory.wfFrom, Bool.and_eq_true, decide_eq_true_eq] at h ⊢
    exact ⟨⟨⟨by omega, h.1.1.2⟩, h.1.2⟩, h.2⟩

theorem Memory.wfFrom_erase {size : Nat} (i : Nat) : ∀ {lo : Nat} {m : Memory}, Memory.wfFrom size lo m = true →
    Memory.wfFrom size lo (Memory.erase m i) = true := by
  intro lo m
  induction m generalizing lo with
  | nil => intro h; exact h
  | cons e m ih =>
    obtain ⟨k, v⟩ := e
    intro h
    simp only [Memory.wfFrom, Bool.and_eq_true, decide_eq_true_eq] at h
    simp only [Memory.erase]
    split
    · exact ih (Memory.wfFrom_mono (by omega) h.2)
    · simp only [Memory.wfFrom, Bool.and_eq_true, decide_eq_true_eq]
      exact ⟨h.1, ih h.2⟩

theorem Memory.wfFrom_insert {size i : Nat} {b : Byte} (hi : i < size) (hb : b ≠ Memory.background) :
    ∀ {lo : Nat} {m : Memory}, lo ≤ i → (∀ e ∈ m, e.1 ≠ i) → Memory.wfFrom size lo m = true →
    Memory.wfFrom size lo (Memory.insert m i b) = true := by
  intro lo m
  induction m generalizing lo with
  | nil =>
    intro hlo _ _
    simp [Memory.insert, Memory.wfFrom, hlo, hi, hb]
  | cons e m ih =>
    obtain ⟨k, v⟩ := e
    intro hlo hm h
    have hk : k ≠ i := hm (k, v) (by simp)
    have h' := h
    simp only [Memory.wfFrom, Bool.and_eq_true, decide_eq_true_eq] at h'
    simp only [Memory.insert]
    split
    · simp only [Memory.wfFrom, Bool.and_eq_true, decide_eq_true_eq]
      exact ⟨⟨⟨hlo, hi⟩, hb⟩, ⟨⟨by omega, h'.1.1.2⟩, h'.1.2⟩, h'.2⟩
    · simp only [Memory.wfFrom, Bool.and_eq_true, decide_eq_true_eq]
      exact ⟨h'.1, ih (by omega) (fun e he => hm e (by simp [he])) h'.2⟩

/-- Writing a byte within the memory keeps the canonical form. -/
theorem Memory.wf_write {size i : Nat} {m : Memory} (b : Byte) (hi : i < size) (h : m.wf size = true) :
    Memory.wf size (Memory.write m i b) = true := by
  unfold Memory.write
  split
  · exact Memory.wfFrom_erase i h
  · rename_i hb
    exact Memory.wfFrom_insert hi hb (Nat.zero_le i) (Memory.erase_not_mem m i) (Memory.wfFrom_erase i h)

@[simp] theorem Memory.wf_nil (size : Nat) : Memory.wf size [] = true := rfl

/-! ### Results that may stop -/

@[simp] theorem Run.ok_bind {α β : Type} (x : α) (f : α → Run β) : ((Except.ok x : Run α) >>= f) = f x := rfl

@[simp] theorem Run.error_bind {α β : Type} (e : Stop) (f : α → Run β) : ((Except.error e : Run α) >>= f) = Except.error e := rfl

/-- What a sequence that succeeded did: its first part succeeded, and the rest on its result. -/
theorem Run.bind_ok {α β : Type} {x : Run α} {f : α → Run β} {r : β} (h : (x >>= f) = .ok r) :
    ∃ a, x = .ok a ∧ f a = .ok r := by
  cases x with
  | error e => simp at h
  | ok a => exact ⟨a, rfl, by simpa using h⟩

@[simp] theorem toOutcome_ok (s : State) : toOutcome (.ok s) = .next s := rfl

@[simp] theorem ofOutcome_toOutcome (r : Run State) : ofOutcome (toOutcome r) = r := by
  cases r with
  | ok s => rfl
  | error e => cases e <;> rfl

@[simp] theorem toOutcome_ofOutcome (o : Host.Outcome State Fault Refusal) : toOutcome (ofOutcome o) = o := by
  cases o <;> rfl

theorem toOutcome_eq_next {r : Run State} {s : State} (h : toOutcome r = .next s) : r = .ok s := by
  cases r with
  | ok t => simpa using h
  | error e => cases e <;> simp [toOutcome] at h

theorem ofOutcome_eq_ok {o : Host.Outcome State Fault Refusal} {s : State} (h : ofOutcome o = .ok s) : o = .next s := by
  cases o <;> simp_all [ofOutcome]

end Sys2Proof.Machine
end

