-- ==== Sys2Proof/Laws/Video.lean ====
section
/-! SUPPORT. What each operation of the PPU address space and of the ports can do, and that it keeps the memories' canonical form. -/

namespace Sys2Proof.Machine

theorem ntOffset_lt (a : Word) : ntOffset a < 1024 := by
  unfold ntOffset
  rw [BitVec.toNat_and]
  exact Nat.lt_of_le_of_lt Nat.and_le_right (by decide)

theorem ptOffset_lt (a : Word) : ptOffset a < 4096 := by
  unfold ptOffset
  rw [BitVec.toNat_and]
  exact Nat.lt_of_le_of_lt Nat.and_le_right (by decide)

theorem palIdx_lt (a : Word) : palIdx a < 32 := by
  have h : (a &&& 0x1F).toNat ≤ 31 := by
    rw [BitVec.toNat_and]; exact Nat.and_le_right
  unfold palIdx
  simp only
  split <;> omega

theorem ramIndex_lt (a : Word) : ramIndex a < 2048 := by
  unfold ramIndex
  rw [BitVec.toNat_and]
  exact Nat.lt_of_le_of_lt Nat.and_le_right (by decide)

theorem ppuAddr_le (a : Word) : (ppuAddr a).toNat ≤ 0x3FFF := by
  unfold ppuAddr
  rw [BitVec.toNat_and]
  exact Nat.and_le_right

/-! ### Reads -/

/-- A cartridge whose bank number names a bank answers every CHR read. -/
theorem chrByte_inRange {c : Cart} (h : c.inRange) {a : Word} {off : Nat} (hm : ppuMapRead c a = .claimed off) :
    chrByte c off = .ok (c.chr.read off) := by
  obtain ⟨_, h⟩ := h
  unfold ppuMapRead at hm
  split at hm
  · unfold chrByte Cart.chrLen
    cases hmap : c.mapper with
    | nrom =>
      simp only [hmap, MapRead.claimed.injEq] at hm
      rw [if_pos (by omega)]
    | cnrom bank =>
      simp only [hmap, MapRead.claimed.injEq] at hm h
      rw [if_pos (by omega)]
  · simp at hm

/-- `PpuRead` answers whenever no cartridge access can be out of range. -/
theorem ppuRead_inRange {c : Cart} (h : c.inRange) (q : Ppu) (a : Word) : ∃ b, ppuRead c q a = .ok b := by
  unfold ppuRead
  simp only
  split
  · rename_i off hm
    exact ⟨_, chrByte_inRange h hm⟩
  · split
    · exact ⟨_, rfl⟩
    · split <;> exact ⟨_, rfl⟩

/-- All a port read can change: the vertical-blank bit, the latch, `v` and the read buffer. -/
theorem ppuPortRead_effect {c : Cart} {p : PpuPort} {q q' : Ppu} {b : Byte} (h : ppuPortRead c p q = .ok (b, q')) :
    ∃ st w v db, q' = { q with status := st, w := w, v := v, dataBuffer := db } ∧
      (st = q.status ∨ st = setBit q.status vblankBit false) := by
  cases p
  case status =>
    simp only [ppuPortRead, readPpuStatus, Ppu.setStatusBit, Except.ok.injEq, Prod.mk.injEq] at h
    exact ⟨_, _, _, _, h.2.symm, .inr rfl⟩
  case data =>
    obtain ⟨x, _, h⟩ := Run.bind_ok h
    simp only [Ppu.stepV, Except.ok.injEq, Prod.mk.injEq] at h
    exact ⟨_, _, _, _, h.2.symm, .inl rfl⟩
  all_goals
    simp only [ppuPortRead, Except.ok.injEq, Prod.mk.injEq] at h
    exact ⟨_, _, _, _, h.2.symm, .inl rfl⟩

/-- A port read answers whenever no cartridge access can be out of range. -/
theorem ppuPortRead_inRange {c : Cart} (h : c.inRange) (p : PpuPort) (q : Ppu) : ∃ r, ppuPortRead c p q = .ok r := by
  cases p
  case data =>
    obtain ⟨b, hb⟩ := ppuRead_inRange h q q.vAddr
    exact ⟨_, by simp [ppuPortRead, readPpuData, hb]; rfl⟩
  all_goals exact ⟨_, rfl⟩

/-! ### Writes -/

/-- All `PpuWrite` can do: store a byte in CHR, in an internal pattern table, in a nametable, or in the palette. -/
theorem ppuWrite_cases {c c' : Cart} {q q' : Ppu} {a : Word} {d : Byte} (h : ppuWrite c q a d = .ok (c', q')) :
    (q' = q ∧ c.mapper = .nrom ∧ ∃ off, off < c.chrLen ∧ c' = { c with chr := c.chr.write off d }) ∨
    (c' = c ∧ (q' = q.writePt (ppuAddr a) d ∨ q' = q.writeNt c.mirroring (ppuAddr a) d ∨
      q' = { q with pal := q.pal.write (palIdx (ppuAddr a)) d })) := by
  unfold ppuWrite at h
  simp only at h
  split at h
  · rename_i off hm
    obtain ⟨c1, h1, h⟩ := Run.bind_ok h
    simp only [Except.ok.injEq, Prod.mk.injEq] at h
    unfold chrStore at h1
    split at h1
    · simp only [Except.ok.injEq] at h1
      refine .inl ⟨h.2.symm, ?_, off, by assumption, by rw [← h.1, ← h1]⟩
      unfold ppuMapWrite at hm
      split at hm
      · split at hm
        · assumption
        · simp at hm
      · simp at hm
    · simp at h1
  · rename_i c1 hm
    unfold ppuMapWrite at hm
    split at hm
    · split at hm <;> simp at hm
    · simp at hm
  · split at h
    · simp only [Except.ok.injEq, Prod.mk.injEq] at h
      exact .inr ⟨h.1.symm, .inl h.2.symm⟩
    · split at h
      · simp only [Except.ok.injEq, Prod.mk.injEq] at h
        exact .inr ⟨h.1.symm, .inr (.inl h.2.symm)⟩
      · simp only [Except.ok.injEq, Prod.mk.injEq] at h
        exact .inr ⟨h.1.symm, .inr (.inr h.2.symm)⟩

/-- `PpuWrite` always answers: a store in CHR is within its first bank. -/
theorem ppuWrite_ok (c : Cart) (q : Ppu) (a : Word) (d : Byte) : ∃ r, ppuWrite c q a d = .ok r := by
  unfold ppuWrite
  simp only
  split
  · rename_i off hm
    have : off < c.chrLen := by
      unfold ppuMapWrite at hm
      split at hm
      · split at hm
        · simp only [MapWrite.store.injEq] at hm
          unfold Cart.chrLen
          omega
        · simp at hm
      · simp at hm
    exact ⟨_, by simp [chrStore, this]; rfl⟩
  · exact ⟨_, rfl⟩
  · split
    · exact ⟨_, rfl⟩
    · split <;> exact ⟨_, rfl⟩

/-- A port write always answers. -/
theorem ppuPortWrite_ok (c : Cart) (p : PpuPort) (q : Ppu) (d : Byte) : ∃ r, ppuPortWrite c p q d = .ok r := by
  cases p
  case data =>
    obtain ⟨r, hr⟩ := ppuWrite_ok c q q.vAddr d
    exact ⟨_, by simp [ppuPortWrite, hr]; rfl⟩
  all_goals exact ⟨_, rfl⟩

/-- The video memories of a PPU are in canonical form. -/
def Ppu.memoriesWf (q : Ppu) : Prop :=
  q.nt0.wf 1024 = true ∧ q.nt1.wf 1024 = true ∧ q.pt0.wf 4096 = true ∧ q.pt1.wf 4096 = true ∧ q.pal.wf 32 = true ∧
    q.oam.wf 256 = true

/-- All a port write can change of the PPU beside its video memories, and that it keeps the memories' and the cartridge's form. -/
theorem ppuPortWrite_effect {c c' : Cart} {p : PpuPort} {q q' : Ppu} {d : Byte} (h : ppuPortWrite c p q d = .ok (c', q')) :
    (∃ ctrl mask oa v t fx w nt0 nt1 pt0 pt1 pal oam, q' = { q with
      ctrl := ctrl, mask := mask, oamAddr := oa, v := v, t := t, fineX := fx, w := w
      nt0 := nt0, nt1 := nt1, pt0 := pt0, pt1 := pt1, pal := pal, oam := oam }) ∧
    (∃ chr, c' = { c with chr := chr } ∧ (c.mapper ≠ .nrom → chr = c.chr)) ∧
    (q.memoriesWf → q'.memoriesWf) ∧ (c.chr.wf c.chrLen = true → c'.chr.wf c.chrLen = true) := by
  cases p
  case data =>
    obtain ⟨⟨c1, q1⟩, h1, h⟩ := Run.bind_ok h
    simp only [Except.ok.injEq, Prod.mk.injEq] at h
    obtain ⟨rfl, rfl⟩ := h
    rcases ppuWrite_cases h1 with ⟨rfl, hm, off, hoff, rfl⟩ | ⟨rfl, rfl | rfl | rfl⟩
    · exact ⟨⟨_, _, _, _, _, _, _, _, _, _, _, _, _, rfl⟩, ⟨_, rfl, fun hn => absurd hm hn⟩, id, fun hw => Memory.wf_write d hoff hw⟩
    · refine ⟨?_, ⟨c1.chr, rfl, fun _ => rfl⟩, ?_, id⟩
      · unfold Ppu.writePt
        split <;> exact ⟨_, _, _, _, _, _, _, _, _, _, _, _, _, rfl⟩
      · rintro ⟨h1, h2, h3, h4, h5, h6⟩
        unfold Ppu.writePt
        split
        · exact ⟨h1, h2, h3, Memory.wf_write d (ptOffset_lt _) h4, h5, h6⟩
        · exact ⟨h1, h2, Memory.wf_write d (ptOffset_lt _) h3, h4, h5, h6⟩
    · refine ⟨?_, ⟨c1.chr, rfl, fun _ => rfl⟩, ?_, id⟩
      · unfold Ppu.writeNt
        split <;> exact ⟨_, _, _, _, _, _, _, _, _, _, _, _, _, rfl⟩
      · rintro ⟨h1, h2, h3, h4, h5, h6⟩
        unfold Ppu.writeNt
        split
        · exact ⟨h1, Memory.wf_write d (ntOffset_lt _) h2, h3, h4, h5, h6⟩
        · exact ⟨Memory.wf_write d (ntOffset_lt _) h1, h2, h3, h4, h5, h6⟩
    · exact ⟨⟨_, _, _, _, _, _, _, _, _, _, _, _, _, rfl⟩, ⟨c1.chr, rfl, fun _ => rfl⟩,
        fun ⟨h1, h2, h3, h4, h5, h6⟩ => ⟨h1, h2, h3, h4, Memory.wf_write d (palIdx_lt _) h5, h6⟩, id⟩
  case oamData =>
    simp only [ppuPortWrite, Except.ok.injEq, Prod.mk.injEq] at h
    obtain ⟨rfl, rfl⟩ := h
    exact ⟨⟨_, _, _, _, _, _, _, _, _, _, _, _, _, rfl⟩, ⟨c.chr, rfl, fun _ => rfl⟩,
      fun ⟨h1, h2, h3, h4, h5, h6⟩ => ⟨h1, h2, h3, h4, h5, Memory.wf_write d q.oamAddr.isLt h6⟩, id⟩
  case scroll =>
    simp only [ppuPortWrite, Except.ok.injEq, Prod.mk.injEq] at h
    obtain ⟨rfl, rfl⟩ := h
    unfold writePpuScroll
    split <;> exact ⟨⟨_, _, _, _, _, _, _, _, _, _, _, _, _, rfl⟩, ⟨c.chr, rfl, fun _ => rfl⟩, id, id⟩
  case addr =>
    simp only [ppuPortWrite, Except.ok.injEq, Prod.mk.injEq] at h
    obtain ⟨rfl, rfl⟩ := h
    unfold writePpuAddr
    split <;> exact ⟨⟨_, _, _, _, _, _, _, _, _, _, _, _, _, rfl⟩, ⟨c.chr, rfl, fun _ => rfl⟩, id, id⟩
  all_goals
    simp only [ppuPortWrite, Except.ok.injEq, Prod.mk.injEq] at h
    obtain ⟨rfl, rfl⟩ := h
    exact ⟨⟨_, _, _, _, _, _, _, _, _, _, _, _, _, rfl⟩, ⟨c.chr, rfl, fun _ => rfl⟩, id, id⟩

end Sys2Proof.Machine
end

