-- ==== Sys2Proof/Laws/Bus.lean ====
section
/-! SUPPORT. What the bus, the stack and the handler entries do: by location, as one frame each, and when they answer. -/

namespace Sys2Proof.Machine

/-! ### Locations -/

/-- A bus read, by the location of the address. -/
theorem busRead_locate (a : Word) (s : State) :
    busRead a s = match locate s.cart a with
      | .prg off => (prgByte s.cart off).map (fun b => (b, s))
      | .ram i => .ok (s.ram.read i, s)
      | .port p => (ppuPortRead s.cart p s.ppu).map (fun r => (r.1, s.setPpu r.2))
      | .dmaTrigger => .ok (0x00, s)
      | .pad i => .ok (padRead i s)
      | .openBus => .ok (0x00, s) := by
  unfold busRead locate cpuMapRead
  by_cases h : 0x8000 ≤ a.toNat
  · simp only [h, if_true]
    cases prgByte s.cart (prgOffset s.cart a) <;> rfl
  · simp only [h, if_false]
    by_cases h1 : a.toNat ≤ 0x1FFF
    · simp [h1]
    · by_cases h2 : a.toNat ≤ 0x3FFF
      · simp only [h1, h2, if_true, if_false]
        cases ppuPortRead s.cart (portOf a) s.ppu <;> rfl
      · by_cases h4 : a = 0x4014
        · subst h4; simp
        · simp only [h1, h2, h4, if_false]
          by_cases h6 : a = 0x4016
          · simp [h6]
          · by_cases h7 : a = 0x4017
            · subst h7; rfl
            · simp only [h6, h7, if_false]

/-- A bus write, by the location of the address. -/
theorem busWrite_locate (a : Word) (v : Byte) (s : State) :
    busWrite a v s = match locate s.cart a with
      | .prg off => match s.cart.mapper with
        | .nrom => (prgStore s.cart off v).map (fun c => s.setCart c)
        | .cnrom _ => .ok (s.setCart { s.cart with mapper := .cnrom (v.extractLsb' 0 2) })
      | .ram i => .ok (s.setRam (s.ram.write i v))
      | .port p => (ppuPortWrite s.cart p s.ppu v).map (fun r => (s.setCart r.1).setPpu r.2)
      | .dmaTrigger => .ok (dmaStart v s)
      | .pad i => .ok (padWrite i s)
      | .openBus => .ok s := by
  unfold busWrite locate cpuMapWrite
  by_cases h : 0x8000 ≤ a.toNat
  · simp only [h, if_true]
    cases s.cart.mapper with
    | nrom =>
      simp only
      cases prgStore s.cart (prgOffset s.cart a) v <;> rfl
    | cnrom _ => rfl
  · simp only [h, if_false]
    by_cases h1 : a.toNat ≤ 0x1FFF
    · simp [h1]
    · by_cases h2 : a.toNat ≤ 0x3FFF
      · simp only [h1, h2, if_true, if_false]
        cases ppuPortWrite s.cart (portOf a) s.ppu v <;> rfl
      · by_cases h4 : a = 0x4014
        · subst h4; simp
        · simp only [h1, h2, h4, if_false]
          by_cases h6 : a = 0x4016
          · simp [h6]
          · by_cases h7 : a = 0x4017
            · subst h7; rfl
            · simp only [h6, h7, if_false]

/-- A CPU address of PRG is within PRG when there is a program bank. -/
theorem prgOffset_lt {c : Cart} (h : 1 ≤ c.prgBanks) (a : Word) : prgOffset c a < c.prgLen := by
  have h1 : (a &&& 0x7FFF).toNat ≤ 0x7FFF := by rw [BitVec.toNat_and]; exact Nat.and_le_right
  have h2 : (a &&& 0x3FFF).toNat ≤ 0x3FFF := by rw [BitVec.toNat_and]; exact Nat.and_le_right
  unfold prgOffset Cart.prgLen
  split <;> omega

theorem prgByte_ok {c : Cart} (h : 1 ≤ c.prgBanks) (a : Word) :
    prgByte c (prgOffset c a) = .ok (c.prg.read (prgOffset c a)) := by
  simp [prgByte, prgOffset_lt h a]

theorem prgStore_ok {c : Cart} (h : 1 ≤ c.prgBanks) (a : Word) (v : Byte) :
    prgStore c (prgOffset c a) v = .ok { c with prg := c.prg.write (prgOffset c a) v } := by
  simp [prgStore, prgOffset_lt h a]

/-- The offset of a PRG location is its address's offset. -/
theorem locate_prg {c : Cart} {a : Word} {off : Nat} (h : locate c a = .prg off) :
    0x8000 ≤ a.toNat ∧ off = prgOffset c a := by
  unfold locate at h
  split at h
  · exact ⟨by assumption, by simpa using h.symm⟩
  · repeat' split at h
    all_goals simp at h

theorem locate_ram {c : Cart} {a : Word} {i : Nat} (h : locate c a = .ram i) : a.toNat ≤ 0x1FFF ∧ i = ramIndex a := by
  unfold locate at h
  split at h
  · simp at h
  · split at h
    · exact ⟨by assumption, by simpa using h.symm⟩
    · repeat' split at h
      all_goals simp at h

theorem locate_of_prg (c : Cart) {a : Word} (h : 0x8000 ≤ a.toNat) : locate c a = .prg (prgOffset c a) := by
  simp [locate, h]

theorem locate_of_ram (c : Cart) {a : Word} (h : a.toNat ≤ 0x1FFF) : locate c a = .ram (ramIndex a) := by
  simp [locate, h, show ¬ 0x8000 ≤ a.toNat by omega]

/-- The location of an address depends on the cartridge only through the number of program banks. -/
theorem locate_congr {c c' : Cart} (h : c'.prgBanks = c.prgBanks) (a : Word) : locate c' a = locate c a := by
  simp [locate, prgOffset, h]

/-! ### Reads -/

@[simp] theorem map_ok {α β : Type} (f : α → β) (x : α) : (Except.ok x : Run α).map f = .ok (f x) := rfl
@[simp] theorem map_error {α β : Type} (f : α → β) (e : Stop) : (Except.error e : Run α).map f = .error e := rfl

theorem map_eq_ok {α β : Type} {x : Run α} {f : α → β} {r : β} (h : x.map f = .ok r) : ∃ a, x = .ok a ∧ f a = r := by
  cases x with
  | error e => simp at h
  | ok a => exact ⟨a, rfl, by simpa using h⟩

/-- `t` is `s` after bus reads: only the vertical-blank bit, the latch, `v`, the PPUDATA buffer and the controller registers can
differ. -/
def ReadFrame (s t : State) : Prop :=
  ∃ st w v db p0 p1, t = { s with
      ppu := { s.ppu with status := st, w := w, v := v, dataBuffer := db }, padSr0 := p0, padSr1 := p1 } ∧
    (st = s.ppu.status ∨ st = setBit s.ppu.status vblankBit false)

theorem ReadFrame.refl (s : State) : ReadFrame s s := ⟨_, _, _, _, _, _, rfl, .inl rfl⟩

theorem ReadFrame.trans {s t u : State} (h : ReadFrame s t) (h' : ReadFrame t u) : ReadFrame s u := by
  obtain ⟨st, _, _, _, _, _, rfl, hs⟩ := h
  obtain ⟨st', _, _, _, _, _, rfl, hs'⟩ := h'
  refine ⟨st', _, _, _, _, _, rfl, ?_⟩
  have key : setBit (setBit s.ppu.status vblankBit false) vblankBit false = setBit s.ppu.status vblankBit false := by
    generalize s.ppu.status = v
    revert v; decide
  rcases hs with rfl | rfl <;> rcases hs' with h | h <;> simp_all

theorem ReadFrame.cart {s t : State} (h : ReadFrame s t) : t.cart = s.cart := by
  obtain ⟨_, _, _, _, _, _, rfl, _⟩ := h
  rfl

theorem ReadFrame.ram {s t : State} (h : ReadFrame s t) : t.ram = s.ram := by
  obtain ⟨_, _, _, _, _, _, rfl, _⟩ := h
  rfl

/-- All a bus read can do. -/
theorem busRead_effect {a : Word} {s t : State} {b : Byte} (h : busRead a s = .ok (b, t)) : ReadFrame s t := by
  rw [busRead_locate] at h
  split at h
  · obtain ⟨x, _, hx⟩ := map_eq_ok h
    simp only [Prod.mk.injEq] at hx
    exact hx.2 ▸ ReadFrame.refl s
  · simp only [Except.ok.injEq, Prod.mk.injEq] at h
    exact h.2 ▸ ReadFrame.refl s
  · obtain ⟨⟨x, q⟩, h1, hx⟩ := map_eq_ok h
    simp only [Prod.mk.injEq] at hx
    obtain ⟨st, w, v, db, rfl, hst⟩ := ppuPortRead_effect h1
    exact ⟨st, w, v, db, s.padSr0, s.padSr1, hx.2.symm, hst⟩
  · simp only [Except.ok.injEq, Prod.mk.injEq] at h
    exact h.2 ▸ ReadFrame.refl s
  · rename_i i _
    simp only [Except.ok.injEq, padRead, State.setPadSr, Prod.mk.injEq] at h
    split at h
    · exact ⟨_, _, _, _, _, _, h.2.symm, .inl rfl⟩
    · exact ⟨_, _, _, _, _, _, h.2.symm, .inl rfl⟩
  · simp only [Except.ok.injEq, Prod.mk.injEq] at h
    exact h.2 ▸ ReadFrame.refl s

/-- A read of an address with no device returns the byte there and changes nothing. -/
theorem busRead_peek {a : Word} {s : State} {b : Byte} (h : peek s a = some b) : busRead a s = .ok (b, s) := by
  rw [busRead_locate]
  unfold peek at h
  split at h <;> simp_all [prgByte]

/-- A read answers whenever no cartridge access can be out of range. -/
theorem busRead_inRange {s : State} (h : s.cart.inRange) (a : Word) : ∃ b t, busRead a s = .ok (b, t) := by
  rw [busRead_locate]
  split
  · rename_i off hl
    obtain ⟨_, rfl⟩ := locate_prg hl
    exact ⟨_, _, by rw [prgByte_ok h.1]; rfl⟩
  · exact ⟨_, _, rfl⟩
  · rename_i p _
    obtain ⟨r, hr⟩ := ppuPortRead_inRange h p s.ppu
    exact ⟨_, _, by rw [hr]; rfl⟩
  · exact ⟨_, _, rfl⟩
  · exact ⟨_, _, rfl⟩
  · exact ⟨_, _, rfl⟩

/-- A read leaves the cartridge as it is. -/
theorem busRead_cart {a : Word} {s t : State} {b : Byte} (h : busRead a s = .ok (b, t)) : t.cart = s.cart :=
  (busRead_effect h).cart

/-- A read depends on the cartridge, RAM, the controllers and the PPU alone. -/
theorem busRead_congr (a : Word) {s s' : State} (hc : s'.cart = s.cart) (hr : s'.ram = s.ram) (h0 : s'.padSr0 = s.padSr0)
    (h1 : s'.padSr1 = s.padSr1) (hp : s'.ppu = s.ppu) :
    busRead a s' = (busRead a s).map
      (fun r => (r.1, { s' with ppu := r.2.ppu, padSr0 := r.2.padSr0, padSr1 := r.2.padSr1 })) := by
  have hl := busRead_locate a s'
  rw [hc, hr, hp] at hl
  rw [hl, busRead_locate]
  split
  · cases prgByte s.cart _ with
    | error e => rfl
    | ok b => simp only [map_ok, ← hp, ← h0, ← h1]
  · simp only [map_ok, ← hp, ← h0, ← h1]
  · cases ppuPortRead s.cart _ s.ppu with
    | error e => rfl
    | ok r => simp only [map_ok, State.setPpu, ← h0, ← h1]
  · simp only [map_ok, ← hp, ← h0, ← h1]
  · rename_i i _
    simp only [map_ok, padRead, State.setPadSr, State.padSr, h0, h1]
    split <;> simp [State.setPadSr0, State.setPadSr1, ← hp, ← h0, ← h1]
  · simp only [map_ok, ← hp, ← h0, ← h1]

/-! ### Writes -/

/-- A write answers whenever there is a program bank. -/
theorem busWrite_ok {s : State} (h : 1 ≤ s.cart.prgBanks) (a : Word) (v : Byte) : ∃ t, busWrite a v s = .ok t := by
  rw [busWrite_locate]
  split
  · rename_i off hl
    obtain ⟨_, rfl⟩ := locate_prg hl
    split
    · exact ⟨_, by rw [prgStore_ok h]; rfl⟩
    · exact ⟨_, rfl⟩
  · exact ⟨_, rfl⟩
  · rename_i p _
    obtain ⟨r, hr⟩ := ppuPortWrite_ok s.cart p s.ppu v
    exact ⟨_, by rw [hr]; rfl⟩
  · exact ⟨_, rfl⟩
  · exact ⟨_, rfl⟩
  · exact ⟨_, rfl⟩

/-- What a bus write leaves in place: every CPU register and counter, the parameters, the lengths of the cartridge's memories, and the
renderer's own state. -/
structure WriteFrame (s t : State) : Prop where
  outside : t = { s with ram := t.ram, padSr0 := t.padSr0, padSr1 := t.padSr1, dma := t.dma, ppu := t.ppu, cart := t.cart }
  cart : t.cart = { s.cart with prg := t.cart.prg, chr := t.cart.chr, mapper := t.cart.mapper }
  mapper : (s.cart.mapper = .nrom ∧ t.cart.mapper = .nrom) ∨
    (∃ b b', s.cart.mapper = .cnrom b ∧ t.cart.mapper = .cnrom b')
  ppu : t.ppu = { s.ppu with
    ctrl := t.ppu.ctrl, mask := t.ppu.mask, oamAddr := t.ppu.oamAddr, v := t.ppu.v, t := t.ppu.t, fineX := t.ppu.fineX
    w := t.ppu.w, nt0 := t.ppu.nt0, nt1 := t.ppu.nt1, pt0 := t.ppu.pt0, pt1 := t.ppu.pt1, pal := t.ppu.pal, oam := t.ppu.oam }
  dma : t.dma = s.dma ∨ t.dma.active = true
  ramWf : s.ram.wf 2048 = true → t.ram.wf 2048 = true
  prgWf : s.cart.prg.wf s.cart.prgLen = true → t.cart.prg.wf s.cart.prgLen = true
  chrWf : s.cart.chr.wf s.cart.chrLen = true → t.cart.chr.wf s.cart.chrLen = true
  videoWf : s.ppu.memoriesWf → t.ppu.memoriesWf
  banked : s.cart.mapper ≠ .nrom → t.cart.prg = s.cart.prg ∧ t.cart.chr = s.cart.chr

/-- Whatever the mapper is, it is of the same kind as itself. -/
theorem Mapper.same_kind (m : Mapper) : (m = .nrom ∧ m = .nrom) ∨ (∃ b b', m = .cnrom b ∧ m = .cnrom b') := by
  cases m with
  | nrom => exact .inl ⟨rfl, rfl⟩
  | cnrom b => exact .inr ⟨b, b, rfl, rfl⟩

/-- All a bus write can do. -/
theorem busWrite_effect {a : Word} {v : Byte} {s t : State} (h : busWrite a v s = .ok t) : WriteFrame s t := by
  rw [busWrite_locate] at h
  split at h
  · split at h
    · rename_i hm
      obtain ⟨c, h1, rfl⟩ := map_eq_ok h
      unfold prgStore at h1
      split at h1
      · simp only [Except.ok.injEq] at h1
        subst h1
        exact ⟨rfl, rfl, .inl ⟨hm, hm⟩, rfl, .inl rfl, id, fun hw => Memory.wf_write v (by assumption) hw, id, id,
          fun hn => absurd hm hn⟩
      · simp at h1
    · rename_i b hm
      simp only [Except.ok.injEq] at h
      subst h
      exact ⟨rfl, rfl, .inr ⟨b, _, hm, rfl⟩, rfl, .inl rfl, id, id, id, id, fun _ => ⟨rfl, rfl⟩⟩
  · rename_i i hl
    simp only [Except.ok.injEq] at h
    subst h
    exact ⟨rfl, rfl, Mapper.same_kind _, rfl, .inl rfl, fun hw => Memory.wf_write v (by rw [(locate_ram hl).2]; exact ramIndex_lt a) hw,
      id, id, id, fun _ => ⟨rfl, rfl⟩⟩
  · obtain ⟨⟨c, q⟩, h1, rfl⟩ := map_eq_ok h
    obtain ⟨⟨ctrl, mask, oa, v1, t1, fx, w, n0, n1, p0, p1, pal, oam, rfl⟩, ⟨chr, rfl, hb⟩, hw, hc⟩ := ppuPortWrite_effect h1
    exact ⟨rfl, rfl, Mapper.same_kind _, rfl, .inl rfl, id, id, hc, hw, fun hn => ⟨rfl, hb hn⟩⟩
  · simp only [Except.ok.injEq] at h
    subst h
    exact ⟨rfl, rfl, Mapper.same_kind _, rfl, .inr rfl, id, id, id, id, fun _ => ⟨rfl, rfl⟩⟩
  · simp only [Except.ok.injEq, padWrite, State.setPadSr] at h
    subst h
    split <;> exact ⟨rfl, rfl, Mapper.same_kind _, rfl, .inl rfl, id, id, id, id, fun _ => ⟨rfl, rfl⟩⟩
  · simp only [Except.ok.injEq] at h
    subst h
    exact ⟨rfl, rfl, Mapper.same_kind _, rfl, .inl rfl, id, id, id, id, fun _ => ⟨rfl, rfl⟩⟩

/-- A write depends on the bus's and the PPU's state alone. -/
theorem busWrite_congr (a : Word) (v : Byte) {s s' : State} (hc : s'.cart = s.cart) (hr : s'.ram = s.ram)
    (h0 : s'.padSr0 = s.padSr0) (h1 : s'.padSr1 = s.padSr1) (hp : s'.ppu = s.ppu) (hd : s'.dma = s.dma)
    (hm : s'.master = s.master) (hk : s'.resets = s.resets) :
    busWrite a v s' = (busWrite a v s).map (fun t => { s' with
      ram := t.ram, padSr0 := t.padSr0, padSr1 := t.padSr1, dma := t.dma, ppu := t.ppu, cart := t.cart }) := by
  have hl := busWrite_locate a v s'
  rw [hc, hr, hp] at hl
  rw [hl, busWrite_locate]
  split
  · split
    · cases prgStore s.cart _ v with
      | error e => rfl
      | ok c => simp [State.setCart, ← hr, ← h0, ← h1, ← hd, ← hp]
    · simp [State.setCart, ← hr, ← h0, ← h1, ← hd, ← hp]
  · simp [State.setRam, ← hc, ← h0, ← h1, ← hd, ← hp]
  · cases ppuPortWrite s.cart _ s.ppu v with
    | error e => rfl
    | ok r => simp [State.setCart, State.setPpu, ← hr, ← h0, ← h1, ← hd]
  · simp [dmaStart, State.setDma, ← hr, ← hc, ← h0, ← h1, ← hd, ← hp]
  · simp only [map_ok, padWrite, State.setPadSr, ← hm, ← hk]
    split <;> simp [State.setPadSr0, State.setPadSr1, ← hr, ← hc, ← h0, ← h1, ← hd, ← hp]
  · simp [← hr, ← hc, ← h0, ← h1, ← hd, ← hp]

/-! ### Bytes through reads and writes -/

/-- `peek` depends on RAM and the cartridge alone. -/
theorem peek_congr {s t : State} (hr : t.ram = s.ram) (hc : t.cart = s.cart) (a : Word) : peek t a = peek s a := by
  unfold peek
  rw [hr, hc]

/-- `peek` after a change that leaves the byte of RAM or PRG at its location as it is. -/
theorem peek_store {s t : State} (hb : t.cart.prgBanks = s.cart.prgBanks) {a : Word}
    (hr : ∀ i, locate s.cart a = .ram i → t.ram.read i = s.ram.read i)
    (hp : ∀ off, locate s.cart a = .prg off → t.cart.prg.read off = s.cart.prg.read off) : peek t a = peek s a := by
  unfold peek
  rw [locate_congr hb]
  split
  · rename_i i h; rw [hr i h]
  · rename_i off h; rw [hp off h, Cart.prgLen, hb]; rfl
  all_goals rfl

/-- A write leaves every byte as it is but the one at its own location. -/
theorem busWrite_peek {a a' : Word} {v : Byte} {s t : State} (h : busWrite a v s = .ok t) (hn : locate s.cart a' ≠ locate s.cart a) :
    peek t a' = peek s a' := by
  have hw := busWrite_effect h
  refine peek_store (by rw [hw.cart]) ?_ ?_
  · intro i hi
    rw [busWrite_locate] at h
    split at h
    · split at h
      · obtain ⟨c, _, rfl⟩ := map_eq_ok h; rfl
      · cases h; rfl
    · rename_i j hj
      cases h
      exact Memory.read_write_ne _ _ (fun he => hn (by rw [hi, hj, he]))
    · obtain ⟨r, _, rfl⟩ := map_eq_ok h; rfl
    · cases h; rfl
    · rename_i k _; cases h; unfold padWrite State.setPadSr; split <;> rfl
    · cases h; rfl
  · intro i hi
    rw [busWrite_locate] at h
    split at h
    · rename_i off hoff
      split at h
      · obtain ⟨c, hc, rfl⟩ := map_eq_ok h
        unfold prgStore at hc
        split at hc
        · cases hc; exact Memory.read_write_ne _ _ (fun he => hn (by rw [hi, hoff, he]))
        · cases hc
      · cases h; rfl
    · cases h; rfl
    · obtain ⟨r, hr, rfl⟩ := map_eq_ok h
      obtain ⟨_, ⟨chr, he, _⟩, _⟩ := ppuPortWrite_effect hr
      show r.1.prg.read i = _
      rw [he]
    · cases h; rfl
    · rename_i k _; cases h; unfold padWrite State.setPadSr; split <;> rfl
    · cases h; rfl

/-- A read changes no byte. -/
theorem ReadFrame.peek {s t : State} (h : ReadFrame s t) (a : Word) : Machine.peek t a = Machine.peek s a :=
  peek_congr h.ram h.cart a

/-! ### The stack -/

theorem stackAddr_toNat (sp : Byte) : (stackAddr sp).toNat = stackIndex sp := by
  revert sp; decide

theorem stackIndex_lt (sp : Byte) : stackIndex sp < 0x200 := by
  have := sp.isLt
  unfold stackIndex
  omega

theorem locate_stack (c : Cart) (sp : Byte) : locate c (stackAddr sp) = .ram (stackIndex sp) := by
  have h : (stackAddr sp).toNat ≤ 0x1FFF := by
    rw [stackAddr_toNat]; exact Nat.le_of_lt (Nat.lt_of_lt_of_le (stackIndex_lt sp) (by decide))
  rw [locate_of_ram c h]
  have : ramIndex (stackAddr sp) = stackIndex sp := by revert sp; decide
  rw [this]

/-- A push: the byte in page 1 at SP, and SP down by one. It always answers. -/
theorem push_eq (v : Byte) (s : State) :
    push v s = .ok { s with ram := s.ram.write (stackIndex s.sp) v, sp := s.sp - 1 } := by
  simp [push, busWrite_locate, locate_stack, State.setRam, State.setSp]

/-- A pull: SP up by one, and the byte in page 1 there. It always answers. -/
theorem pull_eq (s : State) :
    pull s = .ok (s.ram.read (stackIndex (s.sp + 1)), { s with sp := s.sp + 1 }) := by
  simp [pull, busRead_locate, locate_stack, State.setSp]

theorem sub_sub_lit (v : Byte) : v - 1#8 - 1#8 = v - 2#8 ∧ v - 2#8 - 1#8 = v - 3#8 := by
  constructor <;> bv_omega

theorem add_add_lit (v : Byte) : v + 1#8 + 1#8 = v + 2#8 ∧ v + 2#8 + 1#8 = v + 3#8 := by
  constructor <;> bv_omega

/-- Two pushes, the high byte first. -/
theorem pushWord_eq (w : Word) (s : State) :
    pushWord w s = .ok { s with
      ram := (s.ram.write (stackIndex s.sp) (highByte w)).write (stackIndex (s.sp - 1)) (lowByte w), sp := s.sp - 2 } := by
  simp [pushWord, push_eq, sub_sub_lit]

/-- Two pulls, the low byte first. -/
theorem pullWord_eq (s : State) :
    pullWord s = .ok (wordOf (s.ram.read (stackIndex (s.sp + 1))) (s.ram.read (stackIndex (s.sp + 2))),
      { s with sp := s.sp + 2 }) := by
  simp [pullWord, pull_eq, add_add_lit]

/-! ### Pairs and handlers -/

theorem busRead_prg {s : State} (h : 1 ≤ s.cart.prgBanks) {a : Word} (ha : 0x8000 ≤ a.toNat) :
    busRead a s = .ok (s.cart.prg.read (prgOffset s.cart a), s) := by
  rw [busRead_locate, locate_of_prg _ ha]
  simp [prgByte_ok h]

theorem readPair_prg {s : State} (h : 1 ≤ s.cart.prgBanks) {lo hi : Word} (hl : 0x8000 ≤ lo.toNat) (hh : 0x8000 ≤ hi.toNat) :
    readPair lo hi s = .ok (prgWord s.cart lo hi, s) := by
  simp [readPair, busRead_prg h hl, busRead_prg h hh, prgWord]

/-- A pair answers whenever no cartridge access can be out of range, and leaves the cartridge as it is. -/
theorem readPair_inRange {s : State} (h : s.cart.inRange) (lo hi : Word) :
    ∃ w t, readPair lo hi s = .ok (w, t) ∧ t.cart = s.cart := by
  obtain ⟨b, t, ht⟩ := busRead_inRange h lo
  have hc := busRead_cart ht
  obtain ⟨b', t', ht'⟩ := busRead_inRange (s := t) (by rw [hc]; exact h) hi
  exact ⟨wordOf b b', t', by simp [readPair, ht, ht'], by rw [busRead_cart ht', hc]⟩

/-- The entry into a handler, with a vector in the mapper's range: it answers whenever there is a program bank. -/
theorem enterHandler_eq {s : State} (h : 1 ≤ s.cart.prgBanks) {vec : Word} (hl : 0x8000 ≤ vec.toNat)
    (hh : 0x8000 ≤ (vec + 1).toNat) (pushed after : Byte) :
    enterHandler vec pushed after s = .ok { s with
      ram := framePushed s pushed, sp := s.sp - 3, p := withFlag after .I true, pc := prgWord s.cart vec (vec + 1) } := by
  simp only [enterHandler, pushWord_eq, push_eq, Run.ok_bind]
  rw [readPair_prg (by simpa using h) hl hh]
  simp [framePushed, State.setP, State.setPc, sub_sub_lit]

/-- IRQ with I clear. -/
theorem cpuIrq_eq {s : State} (h : 1 ≤ s.cart.prgBanks) (hi : s.flag .I = false) :
    cpuIrq s = .ok { s with
      ram := framePushed s (interruptStatus s.p), sp := s.sp - 3, p := withFlag (interruptStatus s.p) .I true
      pc := prgWord s.cart irqVector (irqVector + 1), cycles := 7 } := by
  simp [cpuIrq, hi, enterHandler_eq h (vec := irqVector) (by decide) (by decide), State.setCycles]

/-- NMI. -/
theorem cpuNmi_eq {s : State} (h : 1 ≤ s.cart.prgBanks) :
    cpuNmi s = .ok { s with
      ram := framePushed s (interruptStatus s.p), sp := s.sp - 3, p := withFlag (interruptStatus s.p) .I true
      pc := prgWord s.cart nmiVector (nmiVector + 1), cycles := 8 } := by
  simp [cpuNmi, enterHandler_eq h (vec := nmiVector) (by decide) (by decide), State.setCycles]

/-- BRK's entry. -/
theorem enterBrk_eq {s : State} (h : 1 ≤ s.cart.prgBanks) :
    enterBrk s = .ok { s with
      ram := framePushed s (pushedStatus s.p), sp := s.sp - 3, p := withFlag (withFlag s.p .B false) .I true
      pc := prgWord s.cart irqVector (irqVector + 1) } := by
  simp [enterBrk, enterHandler_eq h (vec := irqVector) (by decide) (by decide)]

/-- The return from a handler. It always answers. -/
theorem returnFromHandler_eq (s : State) :
    returnFromHandler s = .ok { s with
      sp := s.sp + 3, p := pulledStatus (s.ram.read (stackIndex (s.sp + 1)))
      pc := wordOf (s.ram.read (stackIndex (s.sp + 2))) (s.ram.read (stackIndex (s.sp + 3))) } := by
  have h3 : s.sp + 1#8 + 2#8 = s.sp + 3#8 := by bv_omega
  simp [returnFromHandler, pull_eq, pullWord_eq, State.setP, State.setPc, add_add_lit, h3]

theorem framePushed_wf {s : State} (h : s.ram.wf 2048 = true) (pushed : Byte) : (framePushed s pushed).wf 2048 = true := by
  have lt : ∀ sp : Byte, stackIndex sp < 2048 := fun sp => Nat.lt_of_lt_of_le (stackIndex_lt sp) (by decide)
  exact Memory.wf_write _ (lt _) (Memory.wf_write _ (lt _) (Memory.wf_write _ (lt _) h))

/-! ### Cartridges through a write -/

/-- A cartridge that can never stop the machine answers every access. -/
theorem Cart.neverFaults.inRange {c : Cart} (h : c.neverFaults) : c.inRange := by
  obtain ⟨h1, h2⟩ := h
  refine ⟨h1, ?_⟩
  cases hm : c.mapper with
  | nrom => trivial
  | cnrom b =>
    have := b.isLt
    rcases h2 with h2 | h2
    · simp [hm] at h2
    · show b.toNat < max 1 c.chrBanks
      omega

/-- A write leaves such a cartridge such a cartridge. -/
theorem WriteFrame.neverFaults {s t : State} (h : WriteFrame s t) (hs : s.cart.neverFaults) : t.cart.neverFaults := by
  obtain ⟨h1, h2⟩ := hs
  have hb : t.cart.prgBanks = s.cart.prgBanks := by rw [h.cart]
  have hc : t.cart.chrBanks = s.cart.chrBanks := by rw [h.cart]
  refine ⟨by rw [hb]; exact h1, ?_⟩
  rcases h2 with h2 | h2
  · rcases h.mapper with ⟨_, hm⟩ | ⟨b, b', hm, _⟩
    · exact .inl hm
    · simp [h2] at hm
  · exact .inr (by rw [hc]; exact h2)

end Sys2Proof.Machine
end

