-- ==== Sys2Proof/Laws/Operands.lean ====
section
/-! SUPPORT. The addressing modes in closed form, and one lemma per instruction shape that says all it does. -/

namespace Sys2Proof.Machine

/-! ### The countdown is not seen by the bus -/

/-- Setting the countdown before a read or after it is the same. -/
theorem busRead_setCycles (a : Word) (n : Nat) (s : State) :
    busRead a (s.setCycles n) = (busRead a s).map (fun r => (r.1, r.2.setCycles n)) := by
  rw [busRead_congr a (s := s) (s' := s.setCycles n) rfl rfl rfl rfl rfl]
  cases h : busRead a s with
  | error e => rfl
  | ok r =>
    obtain ⟨b, t⟩ := r
    obtain ⟨_, _, _, _, _, _, rfl, _⟩ := busRead_effect h
    rfl

/-- Setting `addr_abs` before a read or after it is the same. -/
theorem busRead_setAddrAbs (a w : Word) (s : State) :
    busRead a (s.setAddrAbs w) = (busRead a s).map (fun r => (r.1, r.2.setAddrAbs w)) := by
  rw [busRead_congr a (s := s) (s' := s.setAddrAbs w) rfl rfl rfl rfl rfl]
  cases h : busRead a s with
  | error e => rfl
  | ok r =>
    obtain ⟨b, t⟩ := r
    obtain ⟨_, _, _, _, _, _, rfl, _⟩ := busRead_effect h
    rfl

theorem readPair_setCycles (lo hi : Word) (n : Nat) (s : State) :
    readPair lo hi (s.setCycles n) = (readPair lo hi s).map (fun r => (r.1, r.2.setCycles n)) := by
  unfold readPair
  rw [busRead_setCycles]
  cases busRead lo s with
  | error e => rfl
  | ok r =>
    simp only [map_ok, Run.ok_bind]
    rw [busRead_setCycles]
    cases busRead hi r.2 <;> rfl

theorem readPair_effect {lo hi w : Word} {s t : State} (h : readPair lo hi s = .ok (w, t)) : ReadFrame s t := by
  obtain ⟨⟨b, u⟩, h1, h⟩ := Run.bind_ok h
  obtain ⟨⟨b', u'⟩, h2, h⟩ := Run.bind_ok h
  simp only [Except.ok.injEq, Prod.mk.injEq] at h
  exact h.2 ▸ (busRead_effect h1).trans (busRead_effect h2)

/-! ### Effective addresses -/

/-- The byte at a page-0 address is a byte of RAM. -/
theorem busRead_zeroPage (z : Byte) (s : State) : busRead (zeroPage z) s = .ok (s.ram.read z.toNat, s) := by
  have h : (zeroPage z).toNat ≤ 0x1FFF ∧ ramIndex (zeroPage z) = z.toNat := by revert z; decide
  rw [busRead_locate, locate_of_ram _ h.1, h.2]

theorem zeroPagePointer_eq (z : Byte) (s : State) : zeroPagePointer z s = .ok (ramPointer s.ram z, s) := by
  simp [zeroPagePointer, readPair, busRead_zeroPage, ramPointer]

/-- A mode's routine reads at most a pointer in page 0: it always answers and changes nothing. -/
theorem effectiveAddr_eq (m : Addr) (s : State) : effectiveAddr m s = .ok ((addrOf m s).1, (addrOf m s).2, s) := by
  cases m <;> simp [effectiveAddr, addrOf, zeroPagePointer_eq]

theorem resolve_eq (m : Addr) (s : State) :
    resolve m s = .ok ((addrOf m s).1, (addrOf m s).2, s.setAddrAbs (addrOf m s).1) := by
  simp [resolve, effectiveAddr_eq]

theorem addrOf_setCycles (m : Addr) (n : Nat) (s : State) : addrOf m (s.setCycles n) = addrOf m s := by
  cases m <;> rfl

/-! ### Operands -/

/-- Setting the countdown before an operand is read or after it is the same. -/
theorem readOperand_setCycles (o : Operand) (n : Nat) (s : State) :
    readOperand o (s.setCycles n) = (readOperand o s).map (fun r => (r.1, r.2.1, r.2.2.setCycles n)) := by
  cases o with
  | imm b => rfl
  | mem m =>
    simp only [readOperand, resolve_eq, addrOf_setCycles, Run.ok_bind, fetchOperand]
    rw [show (s.setCycles n).setAddrAbs (addrOf m s).1 = (s.setAddrAbs (addrOf m s).1).setCycles n from rfl, busRead_setCycles]
    cases busRead (addrOf m s).1 (s.setAddrAbs (addrOf m s).1) <;> rfl

/-- All that reading an operand can do. -/
theorem readOperand_effect {o : Operand} {s t : State} {b : Byte} {cross : Bool} (h : readOperand o s = .ok (b, cross, t)) :
    ∃ u, ReadFrame s u ∧ t = (u.setAddrAbs t.addrAbs).setFetched b := by
  cases o with
  | imm b' =>
    simp only [readOperand, Except.ok.injEq, Prod.mk.injEq] at h
    obtain ⟨rfl, _, rfl⟩ := h
    exact ⟨s, ReadFrame.refl s, rfl⟩
  | mem m =>
    simp only [readOperand, resolve_eq, Run.ok_bind, fetchOperand] at h
    rw [busRead_setAddrAbs] at h
    cases hb : busRead (addrOf m s).1 s with
    | error e => simp [hb] at h
    | ok r =>
      simp only [hb, map_ok, Run.ok_bind, Except.ok.injEq, Prod.mk.injEq] at h
      obtain ⟨rfl, _, rfl⟩ := h
      exact ⟨r.2, busRead_effect hb, rfl⟩

/-- Reading an operand answers whenever no cartridge access can be out of range. -/
theorem readOperand_inRange {s : State} (h : s.cart.inRange) (o : Operand) : ∃ b cross t, readOperand o s = .ok (b, cross, t) := by
  cases o with
  | imm b => exact ⟨_, _, _, rfl⟩
  | mem m =>
    obtain ⟨b, t, hb⟩ := busRead_inRange (s := s.setAddrAbs (addrOf m s).1) h (addrOf m s).1
    exact ⟨b, (addrOf m s).2, t.setFetched b, by simp [readOperand, resolve_eq, fetchOperand, hb]⟩

theorem readOperand_cart {o : Operand} {s t : State} {b : Byte} {cross : Bool} (h : readOperand o s = .ok (b, cross, t)) :
    t.cart = s.cart := by
  obtain ⟨u, hu, ht⟩ := readOperand_effect h
  rw [ht]
  exact hu.cart

/-! ### Shapes -/

/-- An operation on an operand, once the operand is read. -/
theorem readInstr_eq {o : Operand} {s t : State} {b : Byte} {cross : Bool} (h : readOperand o s = .ok (b, cross, t))
    (op : Byte) (asks : Bool) (f : Byte → State → State) :
    readInstr op o asks f s = .ok ((f b (t.setCycles (baseCycles op))).addCycles (cross && asks).toNat) := by
  simp [readInstr, readOperand_setCycles, h]

/-- A store: one write at the effective address. -/
theorem storeInstr_eq (op : Byte) (m : Addr) (r : State → Byte) (s : State) :
    storeInstr op m r s = busWrite (addrOf m s).1 (r ((s.setCycles (baseCycles op)).setAddrAbs (addrOf m s).1))
      ((s.setCycles (baseCycles op)).setAddrAbs (addrOf m s).1) := by
  simp [storeInstr, resolve_eq, addrOf_setCycles]

/-- A read-modify-write: one read and one write at the effective address. -/
theorem rmwInstr_eq {m : Addr} {s t : State} {b : Byte} {cross : Bool} (h : readOperand (.mem m) s = .ok (b, cross, t))
    (op : Byte) (f : Byte → Byte → Byte × Byte) :
    rmwInstr op m f s = busWrite (addrOf m s).1 (f b s.p).1 ((t.setCycles (baseCycles op)).setP (f b s.p).2) := by
  have h' : readOperand (.mem m) (s.setCycles (baseCycles op)) = .ok (b, cross, t.setCycles (baseCycles op)) := by
    rw [readOperand_setCycles, h]; rfl
  have hp : t.p = s.p := by
    obtain ⟨u, ⟨_, _, _, _, _, _, rfl, _⟩, ht⟩ := readOperand_effect h
    rw [ht]; rfl
  simp only [readOperand, resolve_eq, addrOf_setCycles, Run.ok_bind] at h'
  obtain ⟨⟨b', t'⟩, h1, h2⟩ := Run.bind_ok h'
  simp only [Except.ok.injEq, Prod.mk.injEq] at h2
  obtain ⟨rfl, _, h3⟩ := h2
  simp only [rmwInstr, resolve_eq, addrOf_setCycles, Run.ok_bind, h1, h3]
  show busWrite _ (f b' t.p).1 ((t.setCycles _).setP (f b' t.p).2) = _
  rw [hp]

end Sys2Proof.Machine
end

