-- ==== Sys2Proof/Laws/Exec.lean ====
section
/-! SUPPORT. All an instruction can do to what is outside the CPU's own registers, that it keeps U and B, and when it answers. -/

namespace Sys2Proof.Machine

/-! ### The frame of bus traffic -/

/-- `t` is `s` after any bus traffic and any change of the CPU's registers: the counters, the parameters, the cartridge's size and kind,
and the renderer's own state are as they were, and memories keep their form. -/
structure BusFrame (s t : State) : Prop where
  clockCount : t.clockCount = s.clockCount
  master : t.master = s.master
  params : t.params = s.params
  irqEvents : t.irqEvents = s.irqEvents
  resets : t.resets = s.resets
  cart : t.cart = { s.cart with prg := t.cart.prg, chr := t.cart.chr, mapper := t.cart.mapper }
  mapper : (s.cart.mapper = .nrom ∧ t.cart.mapper = .nrom) ∨
    (∃ b b', s.cart.mapper = .cnrom b ∧ t.cart.mapper = .cnrom b')
  banked : s.cart.mapper ≠ .nrom → t.cart.prg = s.cart.prg ∧ t.cart.chr = s.cart.chr
  ppu : t.ppu = { s.ppu with
    ctrl := t.ppu.ctrl, mask := t.ppu.mask, status := t.ppu.status, oamAddr := t.ppu.oamAddr, v := t.ppu.v, t := t.ppu.t
    fineX := t.ppu.fineX, w := t.ppu.w, dataBuffer := t.ppu.dataBuffer, nt0 := t.ppu.nt0, nt1 := t.ppu.nt1, pt0 := t.ppu.pt0
    pt1 := t.ppu.pt1, pal := t.ppu.pal, oam := t.ppu.oam }
  status : ∀ i, i ≠ 7 → t.ppu.status.getLsbD i = s.ppu.status.getLsbD i
  dma : t.dma = s.dma ∨ t.dma.active = true
  ramWf : s.ram.wf 2048 = true → t.ram.wf 2048 = true
  prgWf : s.cart.prg.wf s.cart.prgLen = true → t.cart.prg.wf s.cart.prgLen = true
  chrWf : s.cart.chr.wf s.cart.chrLen = true → t.cart.chr.wf s.cart.chrLen = true
  videoWf : s.ppu.memoriesWf → t.ppu.memoriesWf

theorem BusFrame.refl (s : State) : BusFrame s s :=
  ⟨rfl, rfl, rfl, rfl, rfl, rfl, Mapper.same_kind _, fun _ => ⟨rfl, rfl⟩, rfl, fun _ _ => rfl, .inl rfl, id, id, id, id⟩

theorem BusFrame.prgBanks {s t : State} (h : BusFrame s t) : t.cart.prgBanks = s.cart.prgBanks := by rw [h.cart]
theorem BusFrame.chrBanks {s t : State} (h : BusFrame s t) : t.cart.chrBanks = s.cart.chrBanks := by rw [h.cart]
theorem BusFrame.mirroring {s t : State} (h : BusFrame s t) : t.cart.mirroring = s.cart.mirroring := by rw [h.cart]
theorem BusFrame.prgLen {s t : State} (h : BusFrame s t) : t.cart.prgLen = s.cart.prgLen := by
  unfold Cart.prgLen; rw [h.prgBanks]
theorem BusFrame.chrLen {s t : State} (h : BusFrame s t) : t.cart.chrLen = s.cart.chrLen := by
  unfold Cart.chrLen; rw [h.chrBanks]

theorem BusFrame.notNrom {s t : State} (h : BusFrame s t) (hs : s.cart.mapper ≠ .nrom) : t.cart.mapper ≠ .nrom := by
  rcases h.mapper with ⟨h1, _⟩ | ⟨b, b', _, h2⟩
  · exact absurd h1 hs
  · simp [h2]

theorem BusFrame.trans {s t u : State} (h : BusFrame s t) (h' : BusFrame t u) : BusFrame s u where
  clockCount := h'.clockCount.trans h.clockCount
  master := h'.master.trans h.master
  params := h'.params.trans h.params
  irqEvents := h'.irqEvents.trans h.irqEvents
  resets := h'.resets.trans h.resets
  cart := h'.cart.trans (by rw [h.cart])
  mapper := by
    rcases h.mapper with ⟨h1, h2⟩ | ⟨b, b', h1, h2⟩ <;> rcases h'.mapper with ⟨h3, h4⟩ | ⟨c, c', h3, h4⟩
    · exact .inl ⟨h1, h4⟩
    · simp [h2] at h3
    · simp [h2] at h3
    · exact .inr ⟨b, c', h1, h4⟩
  banked := fun hs =>
    ⟨(h'.banked (h.notNrom hs)).1.trans (h.banked hs).1, (h'.banked (h.notNrom hs)).2.trans (h.banked hs).2⟩
  ppu := h'.ppu.trans (by rw [h.ppu])
  status := fun i hi => (h'.status i hi).trans (h.status i hi)
  dma := by
    rcases h'.dma with h2 | h2
    · rw [h2]; exact h.dma
    · exact .inr h2
  ramWf := h'.ramWf ∘ h.ramWf
  prgWf := fun hs => by
    have := h'.prgWf (by rw [h.prgLen]; exact h.prgWf hs)
    rwa [h.prgLen] at this
  chrWf := fun hs => by
    have := h'.chrWf (by rw [h.chrLen]; exact h.chrWf hs)
    rwa [h.chrLen] at this
  videoWf := h'.videoWf ∘ h.videoWf

/-- `t` is `s` with other CPU registers, RAM apart. -/
def CpuOnly (s t : State) : Prop :=
  t = { s with
    a := t.a, x := t.x, y := t.y, sp := t.sp, pc := t.pc, p := t.p, opcode := t.opcode, addrAbs := t.addrAbs
    addrRel := t.addrRel, fetched := t.fetched, cycles := t.cycles }

theorem CpuOnly.busFrame {s t : State} (h : CpuOnly s t) : BusFrame s t := by
  rw [h]
  exact ⟨rfl, rfl, rfl, rfl, rfl, rfl, Mapper.same_kind _, fun _ => ⟨rfl, rfl⟩, rfl, fun _ _ => rfl, .inl rfl, id, id, id, id⟩

theorem BusFrame.afterCpu {s t u : State} (h : BusFrame t u) (hc : CpuOnly s t) : BusFrame s u := hc.busFrame.trans h

theorem BusFrame.thenCpu {s t u : State} (h : BusFrame s t) (hc : CpuOnly t u) : BusFrame s u := h.trans hc.busFrame

theorem ReadFrame.busFrame {s t : State} (h : ReadFrame s t) : BusFrame s t := by
  obtain ⟨st, w, v, db, p0, p1, rfl, hs⟩ := h
  refine ⟨rfl, rfl, rfl, rfl, rfl, rfl, Mapper.same_kind _, fun _ => ⟨rfl, rfl⟩, rfl, fun i hi => ?_, .inl rfl, id, id, id, id⟩
  show st.getLsbD i = _
  rcases hs with rfl | rfl
  · rfl
  · rw [getLsbD_setBit _ (by decide)]
    exact if_neg hi

theorem WriteFrame.busFrame {s t : State} (h : WriteFrame s t) : BusFrame s t where
  clockCount := by rw [h.outside]
  master := by rw [h.outside]
  params := by rw [h.outside]
  irqEvents := by rw [h.outside]
  resets := by rw [h.outside]
  cart := h.cart
  mapper := h.mapper
  banked := h.banked
  ppu := h.ppu.trans (by rw [h.ppu])
  status := fun _ _ => by rw [h.ppu]
  dma := h.dma
  ramWf := h.ramWf
  prgWf := h.prgWf
  chrWf := h.chrWf
  videoWf := h.videoWf

/-- RAM written and CPU registers changed. -/
theorem BusFrame.ofRam {s t : State} (hr : s.ram.wf 2048 = true → t.ram.wf 2048 = true)
    (h : t = { s with
      a := t.a, x := t.x, y := t.y, sp := t.sp, pc := t.pc, p := t.p, opcode := t.opcode, addrAbs := t.addrAbs
      addrRel := t.addrRel, fetched := t.fetched, cycles := t.cycles, ram := t.ram }) : BusFrame s t := by
  refine ⟨?_, ?_, ?_, ?_, ?_, ?_, ?_, ?_, ?_, ?_, ?_, hr, ?_, ?_, ?_⟩
  all_goals rw [h]
  · exact Mapper.same_kind _
  · exact fun _ => ⟨rfl, rfl⟩
  · exact fun _ _ => rfl
  · exact .inl rfl
  · exact id
  · exact id
  · exact id

theorem Memory.wf_stack {m : Memory} (h : m.wf 2048 = true) (sp v : Byte) : (m.write (stackIndex sp) v).wf 2048 = true :=
  Memory.wf_write v (Nat.lt_of_lt_of_le (stackIndex_lt sp) (by decide)) h

/-! ### Shapes -/

theorem readOperand_busFrame {o : Operand} {s t : State} {b : Byte} {cross : Bool} (h : readOperand o s = .ok (b, cross, t)) :
    BusFrame s t := by
  obtain ⟨u, hu, ht⟩ := readOperand_effect h
  exact hu.busFrame.thenCpu (by rw [ht]; rfl)

/-- What an operation on an operand did, when it answered. -/
theorem readInstr_inv {op : Byte} {o : Operand} {asks : Bool} {f : Byte → State → State} {s t : State}
    (h : readInstr op o asks f s = .ok t) :
    ∃ b cross u, readOperand o s = .ok (b, cross, u) ∧
      t = (f b (u.setCycles (baseCycles op))).addCycles (cross && asks).toNat := by
  cases hr : readOperand o s with
  | error e => simp [readInstr, readOperand_setCycles, hr] at h
  | ok r =>
    obtain ⟨b, cross, u⟩ := r
    rw [readInstr_eq hr] at h
    exact ⟨b, cross, u, rfl, by simpa using h.symm⟩

theorem readInstr_busFrame {op : Byte} {o : Operand} {asks : Bool} {f : Byte → State → State} {s t : State}
    (h : readInstr op o asks f s = .ok t) (hf : ∀ b u, CpuOnly u (f b u)) : BusFrame s t := by
  obtain ⟨b, cross, u, hr, rfl⟩ := readInstr_inv h
  have h1 : CpuOnly u (u.setCycles (baseCycles op)) := rfl
  exact ((readOperand_busFrame hr).thenCpu h1).trans ((hf b _).busFrame.thenCpu rfl)

theorem storeInstr_busFrame {op : Byte} {m : Addr} {r : State → Byte} {s t : State} (h : storeInstr op m r s = .ok t) :
    BusFrame s t := by
  rw [storeInstr_eq] at h
  exact (busWrite_effect h).busFrame.afterCpu rfl

/-- What a read-modify-write did, when it answered. -/
theorem rmwInstr_inv {op : Byte} {m : Addr} {f : Byte → Byte → Byte × Byte} {s t : State} (h : rmwInstr op m f s = .ok t) :
    ∃ b cross u, readOperand (.mem m) s = .ok (b, cross, u) ∧
      busWrite (addrOf m s).1 (f b s.p).1 ((u.setCycles (baseCycles op)).setP (f b s.p).2) = .ok t := by
  cases hr : readOperand (.mem m) s with
  | error e =>
    have h' : readOperand (.mem m) (s.setCycles (baseCycles op)) = .error e := by rw [readOperand_setCycles, hr]; rfl
    simp only [readOperand, resolve_eq, Run.ok_bind] at h'
    simp only [rmwInstr, resolve_eq, Run.ok_bind] at h
    cases hf : fetchOperand (addrOf m (s.setCycles (baseCycles op))).1
        ((s.setCycles (baseCycles op)).setAddrAbs (addrOf m (s.setCycles (baseCycles op))).1) with
    | error e' => simp [hf] at h
    | ok r => simp [hf] at h'
  | ok r =>
    obtain ⟨b, cross, u⟩ := r
    exact ⟨b, cross, u, rfl, by rw [← rmwInstr_eq hr]; exact h⟩

theorem rmwInstr_busFrame {op : Byte} {m : Addr} {f : Byte → Byte → Byte × Byte} {s t : State} (h : rmwInstr op m f s = .ok t) :
    BusFrame s t := by
  obtain ⟨b, cross, u, hr, hw⟩ := rmwInstr_inv h
  exact (readOperand_busFrame hr).trans ((busWrite_effect hw).busFrame.afterCpu rfl)

theorem jumpTarget_busFrame {m : JmpTarget} {s t : State} {w : Word} (h : jumpTarget m s = .ok (w, t)) : BusFrame s t := by
  cases m with
  | abs w' =>
    simp only [jumpTarget, Except.ok.injEq, Prod.mk.injEq] at h
    exact h.2 ▸ BusFrame.refl s
  | ind w' => exact (readPair_effect h).busFrame

theorem push_busFrame {v : Byte} {s t : State} (h : push v s = .ok t) : BusFrame s t := by
  rw [push_eq] at h
  cases h
  exact BusFrame.ofRam (fun hr => Memory.wf_stack hr _ _) rfl

theorem pushWord_busFrame {w : Word} {s t : State} (h : pushWord w s = .ok t) : BusFrame s t := by
  obtain ⟨u, h1, h2⟩ := Run.bind_ok h
  exact (push_busFrame h1).trans (push_busFrame h2)

theorem enterHandler_busFrame {vec : Word} {pushed after : Byte} {s t : State} (h : enterHandler vec pushed after s = .ok t) :
    BusFrame s t := by
  obtain ⟨u, h1, h⟩ := Run.bind_ok h
  obtain ⟨u', h2, h⟩ := Run.bind_ok h
  obtain ⟨⟨w, u''⟩, h3, h⟩ := Run.bind_ok h
  cases h
  exact ((pushWord_busFrame h1).trans (push_busFrame h2)).trans (((readPair_effect h3).busFrame.afterCpu rfl).thenCpu rfl)

theorem shiftInstr_busFrame {op : Byte} {d : ShiftDst} {f : ShiftFn} {s t : State} (h : shiftInstr op d f s = .ok t) :
    BusFrame s t := by
  cases d with
  | acc => cases h; exact CpuOnly.busFrame rfl
  | mem m =>
    simp only [shiftInstr] at h
    exact rmwInstr_busFrame h

theorem branchInstr_cpuOnly {op d : Byte} {c : State → Bool} {s t : State} (h : branchInstr op d c s = .ok t) : CpuOnly s t := by
  simp only [branchInstr, Except.ok.injEq] at h
  subst h
  cases c s <;> rfl

/-- All an instruction can do outside the CPU's registers. -/
theorem exec_busFrame {i : Instr} {s t : State} (h : exec i s = .next t) : BusFrame s t := by
  cases i
  case lda m => exact readInstr_busFrame (toOutcome_eq_next h) (fun _ _ => rfl)
  case ldx m => exact readInstr_busFrame (toOutcome_eq_next h) (fun _ _ => rfl)
  case ldy m => exact readInstr_busFrame (toOutcome_eq_next h) (fun _ _ => rfl)
  case adc m => exact readInstr_busFrame (toOutcome_eq_next h) (fun _ _ => rfl)
  case sbc m => exact readInstr_busFrame (toOutcome_eq_next h) (fun _ _ => rfl)
  case and m => exact readInstr_busFrame (toOutcome_eq_next h) (fun _ _ => rfl)
  case ora m => exact readInstr_busFrame (toOutcome_eq_next h) (fun _ _ => rfl)
  case eor m => exact readInstr_busFrame (toOutcome_eq_next h) (fun _ _ => rfl)
  case bit m => exact readInstr_busFrame (toOutcome_eq_next h) (fun _ _ => rfl)
  case cmp m => exact readInstr_busFrame (toOutcome_eq_next h) (fun _ _ => rfl)
  case cpx m => exact readInstr_busFrame (toOutcome_eq_next h) (fun _ _ => rfl)
  case cpy m => exact readInstr_busFrame (toOutcome_eq_next h) (fun _ _ => rfl)
  case sta m => exact storeInstr_busFrame (toOutcome_eq_next h)
  case stx m => exact storeInstr_busFrame (toOutcome_eq_next h)
  case sty m => exact storeInstr_busFrame (toOutcome_eq_next h)
  case inc m => exact rmwInstr_busFrame (toOutcome_eq_next h)
  case dec m => exact rmwInstr_busFrame (toOutcome_eq_next h)
  case asl m => exact shiftInstr_busFrame (toOutcome_eq_next h)
  case lsr m => exact shiftInstr_busFrame (toOutcome_eq_next h)
  case rol m => exact shiftInstr_busFrame (toOutcome_eq_next h)
  case ror m => exact shiftInstr_busFrame (toOutcome_eq_next h)
  case bcc d =>
    simp only [exec, execBcc] at h
    exact (branchInstr_cpuOnly (toOutcome_eq_next h)).busFrame
  case bcs d =>
    simp only [exec, execBcs] at h
    exact (branchInstr_cpuOnly (toOutcome_eq_next h)).busFrame
  case beq d =>
    simp only [exec, execBeq] at h
    exact (branchInstr_cpuOnly (toOutcome_eq_next h)).busFrame
  case bmi d =>
    simp only [exec, execBmi] at h
    exact (branchInstr_cpuOnly (toOutcome_eq_next h)).busFrame
  case bne d =>
    simp only [exec, execBne] at h
    exact (branchInstr_cpuOnly (toOutcome_eq_next h)).busFrame
  case bpl d =>
    simp only [exec, execBpl] at h
    exact (branchInstr_cpuOnly (toOutcome_eq_next h)).busFrame
  case bvc d =>
    simp only [exec, execBvc] at h
    exact (branchInstr_cpuOnly (toOutcome_eq_next h)).busFrame
  case bvs d =>
    simp only [exec, execBvs] at h
    exact (branchInstr_cpuOnly (toOutcome_eq_next h)).busFrame
  case pha => exact (push_busFrame (toOutcome_eq_next h)).afterCpu rfl
  case php => exact (push_busFrame (toOutcome_eq_next h)).afterCpu rfl
  case pla =>
    have h := toOutcome_eq_next h
    simp only [stackInstr, pull_eq, Run.ok_bind, Except.ok.injEq] at h
    subst h
    exact CpuOnly.busFrame rfl
  case plp =>
    have h := toOutcome_eq_next h
    simp only [stackInstr, pull_eq, Run.ok_bind, Except.ok.injEq] at h
    subst h
    exact CpuOnly.busFrame rfl
  case jmp m =>
    obtain ⟨⟨w, u⟩, h1, h2⟩ := Run.bind_ok (toOutcome_eq_next h)
    cases h2
    exact ((jumpTarget_busFrame h1).afterCpu rfl).thenCpu rfl
  case jsr w =>
    obtain ⟨u, h1, h2⟩ := Run.bind_ok (toOutcome_eq_next h)
    cases h2
    exact BusFrame.thenCpu (BusFrame.afterCpu (s := s) (pushWord_busFrame h1) rfl) (show CpuOnly u (u.setPc w) from rfl)
  case rts =>
    have h := toOutcome_eq_next h
    simp only [stackInstr, pullWord_eq, Run.ok_bind, Except.ok.injEq] at h
    subst h
    exact CpuOnly.busFrame rfl
  case brk => exact (enterHandler_busFrame (toOutcome_eq_next h)).afterCpu rfl
  case rti =>
    have h := toOutcome_eq_next h
    simp only [stackInstr, returnFromHandler_eq, Except.ok.injEq] at h
    subst h
    exact CpuOnly.busFrame rfl
  all_goals
    cases h
    exact CpuOnly.busFrame rfl

end Sys2Proof.Machine
end

