-- ==== Sys2Proof/Laws/PerInstr.lean ====
section
/-! SUPPORT. One fact about every instruction as syntax: a well-formed instruction is encoded in as many bytes as its opcode's mode
says (30_encoding.md R131). -/

namespace Sys2Proof.Laws.EncodeLength

/-- The encoding has the length the opcode selects. -/
def Statement (i : Instr) : Prop := i.wf = true → (encode i).length = i.length

/-- The statement, from the instruction's opcode. -/
theorem of {i : Instr} (op : Byte) (h1 : opcodeOf i = op) (h2 : (operandBytes i).length + 1 = (opcodeRow op).form.length) :
    Statement i := fun _ => by unfold Instr.length; rw [h1]; exact h2

theorem lda (m : Src8) : Statement (.lda m) :=
  match m with
  | .imm _ => of 0xA9 rfl (by rfl)
  | .zp0 _ => of 0xA5 rfl (by rfl)
  | .zpx _ => of 0xB5 rfl (by rfl)
  | .abs _ => of 0xAD rfl (by rfl)
  | .abx _ => of 0xBD rfl (by rfl)
  | .aby _ => of 0xB9 rfl (by rfl)
  | .izx _ => of 0xA1 rfl (by rfl)
  | .izy _ => of 0xB1 rfl (by rfl)
theorem ldx (m : LdxSrc) : Statement (.ldx m) :=
  match m with
  | .imm _ => of 0xA2 rfl (by rfl)
  | .zp0 _ => of 0xA6 rfl (by rfl)
  | .zpy _ => of 0xB6 rfl (by rfl)
  | .abs _ => of 0xAE rfl (by rfl)
  | .aby _ => of 0xBE rfl (by rfl)
theorem ldy (m : LdySrc) : Statement (.ldy m) :=
  match m with
  | .imm _ => of 0xA0 rfl (by rfl)
  | .zp0 _ => of 0xA4 rfl (by rfl)
  | .zpx _ => of 0xB4 rfl (by rfl)
  | .abs _ => of 0xAC rfl (by rfl)
  | .abx _ => of 0xBC rfl (by rfl)
theorem sta (m : StaDst) : Statement (.sta m) :=
  match m with
  | .zp0 _ => of 0x85 rfl (by rfl)
  | .zpx _ => of 0x95 rfl (by rfl)
  | .abs _ => of 0x8D rfl (by rfl)
  | .abx _ => of 0x9D rfl (by rfl)
  | .aby _ => of 0x99 rfl (by rfl)
  | .izx _ => of 0x81 rfl (by rfl)
  | .izy _ => of 0x91 rfl (by rfl)
theorem stx (m : StxDst) : Statement (.stx m) :=
  match m with
  | .zp0 _ => of 0x86 rfl (by rfl)
  | .zpy _ => of 0x96 rfl (by rfl)
  | .abs _ => of 0x8E rfl (by rfl)
theorem sty (m : StyDst) : Statement (.sty m) :=
  match m with
  | .zp0 _ => of 0x84 rfl (by rfl)
  | .zpx _ => of 0x94 rfl (by rfl)
  | .abs _ => of 0x8C rfl (by rfl)
theorem tax : Statement .tax := of 0xAA rfl (by rfl)
theorem tay : Statement .tay := of 0xA8 rfl (by rfl)
theorem txa : Statement .txa := of 0x8A rfl (by rfl)
theorem tya : Statement .tya := of 0x98 rfl (by rfl)
theorem tsx : Statement .tsx := of 0xBA rfl (by rfl)
theorem txs : Statement .txs := of 0x9A rfl (by rfl)
theorem pha : Statement .pha := of 0x48 rfl (by rfl)
theorem php : Statement .php := of 0x08 rfl (by rfl)
theorem pla : Statement .pla := of 0x68 rfl (by rfl)
theorem plp : Statement .plp := of 0x28 rfl (by rfl)
theorem adc (m : Src8) : Statement (.adc m) :=
  match m with
  | .imm _ => of 0x69 rfl (by rfl)
  | .zp0 _ => of 0x65 rfl (by rfl)
  | .zpx _ => of 0x75 rfl (by rfl)
  | .abs _ => of 0x6D rfl (by rfl)
  | .abx _ => of 0x7D rfl (by rfl)
  | .aby _ => of 0x79 rfl (by rfl)
  | .izx _ => of 0x61 rfl (by rfl)
  | .izy _ => of 0x71 rfl (by rfl)
theorem sbc (m : Src8) : Statement (.sbc m) :=
  match m with
  | .imm _ => of 0xE9 rfl (by rfl)
  | .zp0 _ => of 0xE5 rfl (by rfl)
  | .zpx _ => of 0xF5 rfl (by rfl)
  | .abs _ => of 0xED rfl (by rfl)
  | .abx _ => of 0xFD rfl (by rfl)
  | .aby _ => of 0xF9 rfl (by rfl)
  | .izx _ => of 0xE1 rfl (by rfl)
  | .izy _ => of 0xF1 rfl (by rfl)
theorem and (m : Src8) : Statement (.and m) :=
  match m with
  | .imm _ => of 0x29 rfl (by rfl)
  | .zp0 _ => of 0x25 rfl (by rfl)
  | .zpx _ => of 0x35 rfl (by rfl)
  | .abs _ => of 0x2D rfl (by rfl)
  | .abx _ => of 0x3D rfl (by rfl)
  | .aby _ => of 0x39 rfl (by rfl)
  | .izx _ => of 0x21 rfl (by rfl)
  | .izy _ => of 0x31 rfl (by rfl)
theorem ora (m : Src8) : Statement (.ora m) :=
  match m with
  | .imm _ => of 0x09 rfl (by rfl)
  | .zp0 _ => of 0x05 rfl (by rfl)
  | .zpx _ => of 0x15 rfl (by rfl)
  | .abs _ => of 0x0D rfl (by rfl)
  | .abx _ => of 0x1D rfl (by rfl)
  | .aby _ => of 0x19 rfl (by rfl)
  | .izx _ => of 0x01 rfl (by rfl)
  | .izy _ => of 0x11 rfl (by rfl)
theorem eor (m : Src8) : Statement (.eor m) :=
  match m with
  | .imm _ => of 0x49 rfl (by rfl)
  | .zp0 _ => of 0x45 rfl (by rfl)
  | .zpx _ => of 0x55 rfl (by rfl)
  | .abs _ => of 0x4D rfl (by rfl)
  | .abx _ => of 0x5D rfl (by rfl)
  | .aby _ => of 0x59 rfl (by rfl)
  | .izx _ => of 0x41 rfl (by rfl)
  | .izy _ => of 0x51 rfl (by rfl)
theorem bit (m : BitSrc) : Statement (.bit m) :=
  match m with
  | .zp0 _ => of 0x24 rfl (by rfl)
  | .abs _ => of 0x2C rfl (by rfl)
theorem cmp (m : Src8) : Statement (.cmp m) :=
  match m with
  | .imm _ => of 0xC9 rfl (by rfl)
  | .zp0 _ => of 0xC5 rfl (by rfl)
  | .zpx _ => of 0xD5 rfl (by rfl)
  | .abs _ => of 0xCD rfl (by rfl)
  | .abx _ => of 0xDD rfl (by rfl)
  | .aby _ => of 0xD9 rfl (by rfl)
  | .izx _ => of 0xC1 rfl (by rfl)
  | .izy _ => of 0xD1 rfl (by rfl)
theorem cpx (m : CpSrc) : Statement (.cpx m) :=
  match m with
  | .imm _ => of 0xE0 rfl (by rfl)
  | .zp0 _ => of 0xE4 rfl (by rfl)
  | .abs _ => of 0xEC rfl (by rfl)
theorem cpy (m : CpSrc) : Statement (.cpy m) :=
  match m with
  | .imm _ => of 0xC0 rfl (by rfl)
  | .zp0 _ => of 0xC4 rfl (by rfl)
  | .abs _ => of 0xCC rfl (by rfl)
theorem inc (m : RmwDst) : Statement (.inc m) :=
  match m with
  | .zp0 _ => of 0xE6 rfl (by rfl)
  | .zpx _ => of 0xF6 rfl (by rfl)
  | .abs _ => of 0xEE rfl (by rfl)
  | .abx _ => of 0xFE rfl (by rfl)
theorem inx : Statement .inx := of 0xE8 rfl (by rfl)
theorem iny : Statement .iny := of 0xC8 rfl (by rfl)
theorem dec (m : RmwDst) : Statement (.dec m) :=
  match m with
  | .zp0 _ => of 0xC6 rfl (by rfl)
  | .zpx _ => of 0xD6 rfl (by rfl)
  | .abs _ => of 0xCE rfl (by rfl)
  | .abx _ => of 0xDE rfl (by rfl)
theorem dex : Statement .dex := of 0xCA rfl (by rfl)
theorem dey : Statement .dey := of 0x88 rfl (by rfl)
theorem asl (m : ShiftDst) : Statement (.asl m) :=
  match m with
  | .acc => of 0x0A rfl (by rfl)
  | .mem (.zp0 _) => of 0x06 rfl (by rfl)
  | .mem (.zpx _) => of 0x16 rfl (by rfl)
  | .mem (.abs _) => of 0x0E rfl (by rfl)
  | .mem (.abx _) => of 0x1E rfl (by rfl)
theorem lsr (m : ShiftDst) : Statement (.lsr m) :=
  match m with
  | .acc => of 0x4A rfl (by rfl)
  | .mem (.zp0 _) => of 0x46 rfl (by rfl)
  | .mem (.zpx _) => of 0x56 rfl (by rfl)
  | .mem (.abs _) => of 0x4E rfl (by rfl)
  | .mem (.abx _) => of 0x5E rfl (by rfl)
theorem rol (m : ShiftDst) : Statement (.rol m) :=
  match m with
  | .acc => of 0x2A rfl (by rfl)
  | .mem (.zp0 _) => of 0x26 rfl (by rfl)
  | .mem (.zpx _) => of 0x36 rfl (by rfl)
  | .mem (.abs _) => of 0x2E rfl (by rfl)
  | .mem (.abx _) => of 0x3E rfl (by rfl)
theorem ror (m : ShiftDst) : Statement (.ror m) :=
  match m with
  | .acc => of 0x6A rfl (by rfl)
  | .mem (.zp0 _) => of 0x66 rfl (by rfl)
  | .mem (.zpx _) => of 0x76 rfl (by rfl)
  | .mem (.abs _) => of 0x6E rfl (by rfl)
  | .mem (.abx _) => of 0x7E rfl (by rfl)
theorem jmp (m : JmpTarget) : Statement (.jmp m) :=
  match m with
  | .abs _ => of 0x4C rfl (by rfl)
  | .ind _ => of 0x6C rfl (by rfl)
theorem jsr (w : Word) : Statement (.jsr w) := of 0x20 rfl (by rfl)
theorem rts : Statement .rts := of 0x60 rfl (by rfl)
theorem bcc (d : Byte) : Statement (.bcc d) := of 0x90 rfl (by rfl)
theorem bcs (d : Byte) : Statement (.bcs d) := of 0xB0 rfl (by rfl)
theorem beq (d : Byte) : Statement (.beq d) := of 0xF0 rfl (by rfl)
theorem bmi (d : Byte) : Statement (.bmi d) := of 0x30 rfl (by rfl)
theorem bne (d : Byte) : Statement (.bne d) := of 0xD0 rfl (by rfl)
theorem bpl (d : Byte) : Statement (.bpl d) := of 0x10 rfl (by rfl)
theorem bvc (d : Byte) : Statement (.bvc d) := of 0x50 rfl (by rfl)
theorem bvs (d : Byte) : Statement (.bvs d) := of 0x70 rfl (by rfl)
theorem clc : Statement .clc := of 0x18 rfl (by rfl)
theorem cld : Statement .cld := of 0xD8 rfl (by rfl)
theorem cli : Statement .cli := of 0x58 rfl (by rfl)
theorem clv : Statement .clv := of 0xB8 rfl (by rfl)
theorem sec : Statement .sec := of 0x38 rfl (by rfl)
theorem sed : Statement .sed := of 0xF8 rfl (by rfl)
theorem sei : Statement .sei := of 0x78 rfl (by rfl)
theorem nop : Statement .nop := of 0xEA rfl (by rfl)
theorem brk : Statement .brk := of 0x00 rfl (by rfl)
theorem rti : Statement .rti := of 0x40 rfl (by rfl)
/-- The 105 undefined opcodes all have mode IMP. -/
theorem undefined_implied : ∀ op ∈ undefinedOpcodes, (opcodeRow op).form.length = 1 := by decide

theorem undef (op : Byte) : Statement (.undef op) := fun h =>
  (undefined_implied op (by simpa [Instr.wf, isUndefinedOpcode] using h)).symm

end Sys2Proof.Laws.EncodeLength
end

