-- ==== Sys2Proof/Laws/Renderer.lean ====
section
/-! SUPPORT. All a PPU cycle can do to the PPU, and when it answers. -/

namespace Sys2Proof.Machine

/-- `q'` is `q` after a part of a PPU cycle that moves no counter: only `v`, the status flags, the pipelines and the pixel can differ;
there are eight slots, a 2-bit palette number and clear low status bits afterwards if there were before, and `v` stays where it is
with rendering off. -/
structure RenderPart (q q' : Ppu) : Prop where
  frame : q' = { q with
    v := q'.v, status := q'.status, bgPatLo := q'.bgPatLo, bgPatHi := q'.bgPatHi, bgAttLo := q'.bgAttLo, bgAttHi := q'.bgAttHi
    ntId := q'.ntId, ntAttr := q'.ntAttr, ntLsb := q'.ntLsb, ntMsb := q'.ntMsb, spr := q'.spr, sprCount := q'.sprCount
    spr0Possible := q'.spr0Possible, spr0Rendering := q'.spr0Rendering, pixel := q'.pixel }
  slots : q.spr.length = 8 → q'.spr.length = 8
  attr : q.ntAttr.toNat < 4 → q'.ntAttr.toNat < 4
  low : ∀ i < 5, q'.status.getLsbD i = q.status.getLsbD i
  still : q.rendering = false → q'.v = q.v

theorem RenderPart.refl (q : Ppu) : RenderPart q q := ⟨rfl, id, id, fun _ _ => rfl, fun _ => rfl⟩

theorem RenderPart.mask {q q' : Ppu} (h : RenderPart q q') : q'.mask = q.mask := by rw [h.frame]
theorem RenderPart.ctrl {q q' : Ppu} (h : RenderPart q q') : q'.ctrl = q.ctrl := by rw [h.frame]
theorem RenderPart.cycle {q q' : Ppu} (h : RenderPart q q') : q'.cycle = q.cycle := by rw [h.frame]
theorem RenderPart.scanline {q q' : Ppu} (h : RenderPart q q') : q'.scanline = q.scanline := by rw [h.frame]
theorem RenderPart.nmiReq {q q' : Ppu} (h : RenderPart q q') : q'.nmiReq = q.nmiReq := by rw [h.frame]

theorem RenderPart.rendering {q q' : Ppu} (h : RenderPart q q') : q'.rendering = q.rendering := by
  unfold Ppu.rendering Ppu.renderBackground Ppu.renderSprites
  rw [h.mask]

theorem RenderPart.trans {q q' q'' : Ppu} (h : RenderPart q q') (h' : RenderPart q' q'') : RenderPart q q'' where
  frame := h'.frame.trans (by rw [h.frame])
  slots := h'.slots ∘ h.slots
  attr := h'.attr ∘ h.attr
  low := fun i hi => (h'.low i hi).trans (h.low i hi)
  still := fun hr => (h'.still (by rw [h.rendering]; exact hr)).trans (h.still hr)

/-! ### Parts -/

theorem loadBgShifters_part (q : Ppu) : RenderPart q (loadBgShifters q) := ⟨rfl, id, id, fun _ _ => rfl, fun _ => rfl⟩

theorem mapFirst_length {α : Type} (f : α → α) (n : Nat) (l : List α) : (mapFirst f n l).length = l.length := by
  induction l generalizing n with
  | nil => cases n <;> rfl
  | cons x l ih => cases n with
    | zero => rfl
    | succ n => simp [mapFirst, ih]

theorem shiftBackground_part (q : Ppu) : RenderPart q (shiftBackground q) := by
  unfold shiftBackground
  split <;> exact ⟨rfl, id, id, fun _ _ => rfl, fun _ => rfl⟩

theorem shiftSprites_part (q : Ppu) : RenderPart q (shiftSprites q) := by
  unfold shiftSprites
  split
  · exact ⟨rfl, fun h => by simpa [mapFirst_length] using h, id, fun _ _ => rfl, fun _ => rfl⟩
  · exact RenderPart.refl q

theorem updateShifters_part (q : Ppu) : RenderPart q (updateShifters q) :=
  (shiftBackground_part q).trans (shiftSprites_part _)

theorem incrementX_part (q : Ppu) : RenderPart q (incrementX q) := by
  unfold incrementX
  split
  · rename_i hr
    split <;> exact ⟨rfl, id, id, fun _ _ => rfl, fun h => by simp [hr] at h⟩
  · exact RenderPart.refl q

theorem incrementY_part (q : Ppu) : RenderPart q (incrementY q) := by
  unfold incrementY
  split
  · rename_i hr
    simp only
    repeat' split
    all_goals exact ⟨rfl, id, id, fun _ _ => rfl, fun h => by simp [hr] at h⟩
  · exact RenderPart.refl q

theorem transferX_part (q : Ppu) : RenderPart q (transferX q) := by
  unfold transferX
  split
  · rename_i hr
    exact ⟨rfl, id, id, fun _ _ => rfl, fun h => by simp [hr] at h⟩
  · exact RenderPart.refl q

theorem transferY_part (q : Ppu) : RenderPart q (transferY q) := by
  unfold transferY
  split
  · rename_i hr
    exact ⟨rfl, id, id, fun _ _ => rfl, fun h => by simp [hr] at h⟩
  · exact RenderPart.refl q

theorem attributeQuadrant_lt (v : BitVec 15) (b : Byte) : (attributeQuadrant v b).toNat < 4 := by
  unfold attributeQuadrant
  simp only [BitVec.toNat_and]
  exact Nat.lt_of_le_of_lt Nat.and_le_right (by decide)

theorem backgroundFetch_part {c : Cart} {k : Nat} {q q' : Ppu} (h : backgroundFetch c k q = .ok q') : RenderPart q q' := by
  unfold backgroundFetch at h
  split at h
  · obtain ⟨b, _, h⟩ := Run.bind_ok h
    cases h
    exact (loadBgShifters_part q).trans ⟨rfl, id, id, fun _ _ => rfl, fun _ => rfl⟩
  · obtain ⟨b, _, h⟩ := Run.bind_ok h
    cases h
    exact ⟨rfl, id, fun _ => attributeQuadrant_lt _ _, fun _ _ => rfl, fun _ => rfl⟩
  · obtain ⟨b, _, h⟩ := Run.bind_ok h
    cases h
    exact ⟨rfl, id, id, fun _ _ => rfl, fun _ => rfl⟩
  · obtain ⟨b, _, h⟩ := Run.bind_ok h
    cases h
    exact ⟨rfl, id, id, fun _ _ => rfl, fun _ => rfl⟩
  · cases h; exact incrementX_part q
  · cases h; exact RenderPart.refl q

theorem status_low {i j : Nat} (hi : i < 5) (hj : 5 ≤ j) (hj8 : j < 8) (v : Byte) (b : Bool) :
    (setBit v j b).getLsbD i = v.getLsbD i := by
  rw [getLsbD_setBit v hj8, if_neg (by omega)]

theorem eightSlots_length (l : List SpriteSlot) : (eightSlots l).length = 8 := by
  simp [eightSlots]

theorem spriteEvaluate_part (q : Ppu) : RenderPart q (spriteEvaluate q) :=
  ⟨rfl, fun _ => eightSlots_length _, id, fun _ hi => status_low hi (by decide) (by decide) _ _, fun _ => rfl⟩

theorem fetchSprites_length {c : Cart} {q : Ppu} {n : Nat} {l l' : List SpriteSlot} (h : fetchSprites c q n l = .ok l') :
    l'.length = l.length := by
  induction l generalizing n l' with
  | nil => cases n <;> (simp only [fetchSprites, Except.ok.injEq] at h; rw [← h])
  | cons x l ih =>
    cases n with
    | zero => simp only [fetchSprites, Except.ok.injEq] at h; rw [← h]
    | succ n =>
      obtain ⟨x', _, h⟩ := Run.bind_ok h
      obtain ⟨l'', h1, h⟩ := Run.bind_ok h
      cases h
      simp [ih h1]

theorem preRenderClear_part (q : Ppu) : RenderPart q (preRenderClear q) := by
  refine ⟨rfl, fun h => by simpa [preRenderClear] using h, id, fun i hi => ?_, fun _ => rfl⟩
  show (setBit (setBit (setBit q.status 7 false) 6 false) 5 false).getLsbD i = _
  rw [status_low hi, status_low hi, status_low hi] <;> decide

theorem renderClear_part (q : Ppu) : RenderPart q (renderClear q) := by
  unfold renderClear
  split
  · exact preRenderClear_part q
  · exact RenderPart.refl q

theorem renderTile_part {c : Cart} {q q' : Ppu} (h : renderTile c q = .ok q') : RenderPart q q' := by
  unfold renderTile at h
  split at h
  · exact (updateShifters_part q).trans (backgroundFetch_part h)
  · cases h; exact RenderPart.refl q

theorem renderScroll_part (q : Ppu) : RenderPart q (renderScroll q) := by
  unfold renderScroll
  split
  · exact incrementY_part q
  · split
    · exact (loadBgShifters_part q).trans (transferX_part _)
    · exact RenderPart.refl q

theorem renderUnused_part {c : Cart} {q q' : Ppu} (h : renderUnused c q = .ok q') : RenderPart q q' := by
  unfold renderUnused at h
  split at h
  · obtain ⟨b, _, h⟩ := Run.bind_ok h
    cases h
    exact ⟨rfl, id, id, fun _ _ => rfl, fun _ => rfl⟩
  · cases h; exact RenderPart.refl q

theorem renderVertical_part (q : Ppu) : RenderPart q (renderVertical q) := by
  unfold renderVertical
  split
  · exact transferY_part q
  · exact RenderPart.refl q

theorem renderSpriteWork_part {c : Cart} {q q' : Ppu} (h : renderSpriteWork c q = .ok q') : RenderPart q q' := by
  unfold renderSpriteWork at h
  split at h
  · cases h; exact spriteEvaluate_part q
  · split at h
    · obtain ⟨l, h1, h⟩ := Run.bind_ok h
      cases h
      exact ⟨rfl, fun hl => by simpa [fetchSprites_length h1] using hl, id, fun _ _ => rfl, fun _ => rfl⟩
    · cases h; exact RenderPart.refl q

/-- All the render step can do, after the odd-frame skip. -/
theorem renderStep_part {c : Cart} {q q' : Ppu} (h : renderStep c q = .ok q') : RenderPart (oddFrameSkip q) q' := by
  obtain ⟨q1, h1, h⟩ := Run.bind_ok h
  obtain ⟨q2, h2, h⟩ := Run.bind_ok h
  exact ((((renderClear_part _).trans (renderTile_part h1)).trans (renderScroll_part q1)).trans (renderUnused_part h2)).trans
    ((renderVertical_part q2).trans (renderSpriteWork_part h))

theorem foregroundPixel_part (q : Ppu) : RenderPart q (foregroundPixel q).2 := by
  unfold foregroundPixel
  split <;> exact ⟨rfl, id, id, fun _ _ => rfl, fun _ => rfl⟩

theorem priority_part (b : BitVec 2 × BitVec 3) (f : Foreground) (q : Ppu) : RenderPart q (priority b f q).2 := by
  unfold priority
  split
  · exact RenderPart.refl q
  · split
    · exact RenderPart.refl q
    · split
      · exact RenderPart.refl q
      · show RenderPart q (if zeroHit q then q.setStatusBit zeroHitBit true else q)
        split
        · exact ⟨rfl, id, id, fun i hi => status_low hi (by decide) (by decide) _ _, fun _ => rfl⟩
        · exact RenderPart.refl q

/-- All the composition of a pixel can do. -/
theorem composePixel_part {c : Cart} {q q' : Ppu} (h : composePixel c q = .ok q') : RenderPart q q' := by
  obtain ⟨b, _, h⟩ := Run.bind_ok h
  cases h
  exact ((foregroundPixel_part q).trans (priority_part _ _ _)).trans ⟨rfl, id, id, fun _ _ => rfl, fun _ => rfl⟩

/-! ### The cycle -/

/-- The parts of a PPU cycle, in order. -/
theorem ppuClock_inv {c : Cart} {q q' : Ppu} (h : ppuClock c q = .ok q') :
    ∃ q1 q2, ((-1 ≤ q.scanline ∧ q.scanline ≤ 239) → renderStep c q = .ok q1) ∧
      (¬(-1 ≤ q.scanline ∧ q.scanline ≤ 239) → q1 = q) ∧
      composePixel c (vblankLine q1) = .ok q2 ∧ q' = advance q2 := by
  obtain ⟨q1, h1, h⟩ := Run.bind_ok h
  obtain ⟨q2, h2, h⟩ := Run.bind_ok h
  cases h
  unfold renderLine at h1
  refine ⟨q1, q2, fun hv => by rwa [if_pos hv] at h1, fun hv => ?_, h2, rfl⟩
  rw [if_neg hv] at h1
  cases h1
  rfl

theorem oddFrameSkip_part (q : Ppu) : oddFrameSkip q = { q with cycle := (oddFrameSkip q).cycle } := by
  unfold oddFrameSkip
  split <;> rfl

theorem oddFrameSkip_of_ne {q : Ppu} (h : q.scanline ≠ 0) : oddFrameSkip q = q := by
  simp [oddFrameSkip, h]

/-- All a PPU cycle can do before its counters advance: `q2` is the PPU it advances. -/
theorem ppuClock_effect {c : Cart} {q q' : Ppu} (h : ppuClock c q = .ok q') :
    ∃ q2, q' = advance q2 ∧
      RenderPart { oddFrameSkip q with
        nmiReq := q.nmiReq || (decide (q.scanline = 241) && decide (q.cycle = 1) && q.enableNmi) } q2 := by
  obtain ⟨q1, q2, hv, hn, h2, rfl⟩ := ppuClock_inv h
  unfold vblankLine at h2
  refine ⟨q2, rfl, ?_⟩
  by_cases hl : -1 ≤ q.scanline ∧ q.scanline ≤ 239
  · have h1 := renderStep_part (hv hl)
    have hs : q1.scanline = q.scanline := by rw [h1.scanline, oddFrameSkip_part]
    rw [if_neg (by omega)] at h2
    have hne : ¬ q.scanline = 241 := by omega
    have he : { oddFrameSkip q with
        nmiReq := q.nmiReq || (decide (q.scanline = 241) && decide (q.cycle = 1) && q.enableNmi) } = oddFrameSkip q := by
      rw [oddFrameSkip_part]; simp [hne]
    rw [he]
    exact h1.trans (composePixel_part h2)
  · rw [hn hl] at h2
    have hne : q.scanline ≠ 0 := by omega
    rw [oddFrameSkip_of_ne hne]
    by_cases hb : q.scanline = 241 ∧ q.cycle = 1
    · rw [if_pos hb] at h2
      refine RenderPart.trans ?_ (composePixel_part h2)
      have he : (q.nmiReq || (decide (q.scanline = 241) && decide (q.cycle = 1) && q.enableNmi)) = (vblankStart q).nmiReq := by
        simp [hb, vblankStart]
      rw [he]
      exact ⟨rfl, id, id, fun i hi => status_low hi (by decide) (by decide) _ _, fun _ => rfl⟩
    · rw [if_neg hb] at h2
      have he : { q with nmiReq := q.nmiReq || (decide (q.scanline = 241) && decide (q.cycle = 1) && q.enableNmi) } = q := by
        have : (decide (q.scanline = 241) && decide (q.cycle = 1) && q.enableNmi) = false := by
          by_contra hc
          simp only [Bool.not_eq_false, Bool.and_eq_true, decide_eq_true_eq] at hc
          exact hb hc.1
        simp [this]
      rw [he]
      exact composePixel_part h2

/-! ### When it answers -/

theorem backgroundFetch_inRange {c : Cart} (h : c.inRange) (k : Nat) (q : Ppu) : ∃ q', backgroundFetch c k q = .ok q' := by
  unfold backgroundFetch
  split
  · obtain ⟨b, hb⟩ := ppuRead_inRange h (loadBgShifters q) (nametableAddr (loadBgShifters q).v)
    exact ⟨_, by simp only [hb, Run.ok_bind]; rfl⟩
  · obtain ⟨b, hb⟩ := ppuRead_inRange h q (attributeAddr q.v)
    exact ⟨_, by simp only [hb, Run.ok_bind]; rfl⟩
  · obtain ⟨b, hb⟩ := ppuRead_inRange h q (backgroundPatternAddr q)
    exact ⟨_, by simp only [hb, Run.ok_bind]; rfl⟩
  · obtain ⟨b, hb⟩ := ppuRead_inRange h q (backgroundPatternAddr q + 8)
    exact ⟨_, by simp only [hb, Run.ok_bind]; rfl⟩
  · exact ⟨_, rfl⟩
  · exact ⟨_, rfl⟩

theorem fetchSprite_inRange {c : Cart} (h : c.inRange) (q : Ppu) (s : SpriteSlot) : ∃ s', fetchSprite c q s = .ok s' := by
  obtain ⟨lo, hlo⟩ := ppuRead_inRange h q (spritePatternAddr q s (q.scanline - s.y.toNat))
  obtain ⟨hi, hhi⟩ := ppuRead_inRange h q (spritePatternAddr q s (q.scanline - s.y.toNat) + 8)
  unfold fetchSprite
  simp only [hlo, hhi, Run.ok_bind]
  split <;> exact ⟨_, rfl⟩

theorem fetchSprites_inRange {c : Cart} (h : c.inRange) (q : Ppu) (n : Nat) (l : List SpriteSlot) :
    ∃ l', fetchSprites c q n l = .ok l' := by
  induction l generalizing n with
  | nil => cases n <;> exact ⟨_, rfl⟩
  | cons x l ih =>
    cases n with
    | zero => exact ⟨_, rfl⟩
    | succ n =>
      obtain ⟨x', hx⟩ := fetchSprite_inRange h q x
      obtain ⟨l', hl⟩ := ih n
      exact ⟨x' :: l', by simp [fetchSprites, hx, hl]⟩

theorem renderStep_inRange {c : Cart} (h : c.inRange) (q : Ppu) : ∃ q', renderStep c q = .ok q' := by
  unfold renderStep
  obtain ⟨q1, h1⟩ : ∃ q1, renderTile c (renderClear (oddFrameSkip q)) = .ok q1 := by
    unfold renderTile
    split
    · exact backgroundFetch_inRange h _ _
    · exact ⟨_, rfl⟩
  obtain ⟨q2, h2⟩ : ∃ q2, renderUnused c (renderScroll q1) = .ok q2 := by
    unfold renderUnused
    split
    · obtain ⟨b, hb⟩ := ppuRead_inRange h (renderScroll q1) (nametableAddr (renderScroll q1).v)
      exact ⟨_, by simp only [hb, Run.ok_bind]; rfl⟩
    · exact ⟨_, rfl⟩
  simp only [h1, h2, Run.ok_bind]
  unfold renderSpriteWork
  split
  · exact ⟨_, rfl⟩
  · split
    · obtain ⟨l, hl⟩ := fetchSprites_inRange h (renderVertical q2) (renderVertical q2).sprCount.val (renderVertical q2).spr
      exact ⟨_, by simp only [spriteFetch, hl, Run.ok_bind]; rfl⟩
    · exact ⟨_, rfl⟩

theorem composePixel_inRange {c : Cart} (h : c.inRange) (q : Ppu) : ∃ q', composePixel c q = .ok q' := by
  unfold composePixel
  obtain ⟨b, hb⟩ := ppuRead_inRange h (priority (backgroundPixel q) (foregroundPixel q).1 (foregroundPixel q).2).2
    (paletteAddr (priority (backgroundPixel q) (foregroundPixel q).1 (foregroundPixel q).2).1)
  exact ⟨_, by simp only [hb, Run.ok_bind]; rfl⟩

/-- A PPU cycle answers whenever no cartridge access can be out of range. -/
theorem ppuClock_inRange {c : Cart} (h : c.inRange) (q : Ppu) : ∃ q', ppuClock c q = .ok q' := by
  unfold ppuClock
  obtain ⟨q1, h1⟩ : ∃ q1, renderLine c q = .ok q1 := by
    unfold renderLine
    split
    · exact renderStep_inRange h q
    · exact ⟨_, rfl⟩
  obtain ⟨q2, h2⟩ := composePixel_inRange h (vblankLine q1)
  exact ⟨advance q2, by simp only [h1, h2, Run.ok_bind]⟩

end Sys2Proof.Machine
end

