-- ==== Sys2Proof/Laws/Step.lean ====
section
/-! SUPPORT. A master step taken apart: the four parts it is made of, what each can do, and when it answers. -/

namespace Sys2Proof.Machine

/-! ### The CPU's part -/

theorem fetchByte_busFrame {s t : State} {b : Byte} (h : fetchByte s = .ok (b, t)) : BusFrame s t := by
  obtain ⟨⟨b', u⟩, h1, h2⟩ := Run.bind_ok h
  cases h2
  exact (busRead_effect h1).busFrame.thenCpu rfl

theorem fetchForm_busFrame {form : Form} {s t : State} {i : Instr} (h : fetchForm form s = .ok (i, t)) : BusFrame s t := by
  cases form with
  | implied i' => cases h; exact BusFrame.refl s
  | padded i' => cases h; exact CpuOnly.busFrame rfl
  | byte f =>
    obtain ⟨⟨b, u⟩, h1, h2⟩ := Run.bind_ok h
    cases h2
    exact fetchByte_busFrame h1
  | word f =>
    obtain ⟨⟨lo, u⟩, h1, h2⟩ := Run.bind_ok h
    obtain ⟨⟨hi, u'⟩, h3, h4⟩ := Run.bind_ok h2
    cases h4
    exact (fetchByte_busFrame h1).trans (fetchByte_busFrame h3)

theorem fetchInstr_busFrame {s t : State} {i : Instr} (h : fetchInstr s = .ok (i, t)) : BusFrame s t := by
  obtain ⟨⟨op, u⟩, h1, h2⟩ := Run.bind_ok h
  exact (fetchByte_busFrame h1).trans ((fetchForm_busFrame h2).afterCpu rfl)

/-- All a dispatch can do outside the CPU's registers. -/
theorem dispatch_busFrame {s t : State} (h : dispatch s = .ok t) : BusFrame s t := by
  obtain ⟨⟨i, u⟩, h1, h2⟩ := Run.bind_ok h
  exact (fetchInstr_busFrame h1).trans (exec_busFrame (ofOutcome_eq_ok h2))

/-- What a CPU cycle did, when it answered: a dispatch if the countdown was 0, then the count. -/
theorem cpuClock_inv {s t : State} (h : cpuClock s = .ok t) :
    ∃ u, t = u.countDown ∧ ((s.cycles = 0 ∧ dispatch s = .ok u) ∨ (s.cycles ≠ 0 ∧ u = s)) := by
  obtain ⟨u, h1, h2⟩ := Run.bind_ok h
  cases h2
  refine ⟨u, rfl, ?_⟩
  unfold dispatchIfDue at h1
  split at h1
  · exact .inl ⟨by assumption, h1⟩
  · cases h1; exact .inr ⟨by assumption, rfl⟩

/-- A CPU cycle in the countdown only counts. -/
theorem cpuClock_countdown {s : State} (h : s.cycles ≠ 0) : cpuClock s = .ok s.countDown := by
  simp only [cpuClock, dispatchIfDue, if_neg h, Run.ok_bind]

theorem cpuIrq_busFrame {s t : State} (h : cpuIrq s = .ok t) : BusFrame s t := by
  unfold cpuIrq at h
  split at h
  · cases h; exact BusFrame.refl s
  · obtain ⟨u, h1, h2⟩ := Run.bind_ok h
    cases h2
    exact (enterHandler_busFrame h1).thenCpu rfl

theorem cpuNmi_busFrame {s t : State} (h : cpuNmi s = .ok t) : BusFrame s t := by
  obtain ⟨u, h1, h2⟩ := Run.bind_ok h
  cases h2
  exact (enterHandler_busFrame h1).thenCpu rfl

/-! ### DMA -/

/-- What a DMA slot did, when it answered: a wait, the end of the wait, a read, or a write to OAM. -/
theorem dmaStep_cases {s t : State} (h : dmaStep s = .ok t) :
    (s.dma.align = true ∧ s.readParity = true ∧ t = s) ∨
    (s.dma.align = true ∧ s.readParity = false ∧ t = s.setDma { s.dma with align := false }) ∨
    (s.dma.align = false ∧ s.readParity = true ∧ ∃ b u, busRead s.dma.source s = .ok (b, u) ∧ t = u.setDma { u.dma with data := b }) ∨
    (s.dma.align = false ∧ s.readParity = false ∧ t = dmaWrite s) := by
  unfold dmaStep at h
  cases ha : s.dma.align <;> cases hp : s.readParity <;> simp only [ha, hp, if_true, if_false, Bool.false_eq_true] at h
  · cases h; exact .inr (.inr (.inr ⟨rfl, rfl, rfl⟩))
  · obtain ⟨⟨b, u⟩, h1, h2⟩ := Run.bind_ok h
    cases h2
    exact .inr (.inr (.inl ⟨rfl, rfl, b, u, h1, rfl⟩))
  · cases h; exact .inr (.inl ⟨rfl, rfl, rfl⟩)
  · cases h; exact .inl ⟨rfl, rfl, rfl⟩

/-! ### The step -/

/-- What a step did, when it answered: the scheduled IRQ call, the PPU's cycle, the CPU slot, NMI delivery, and M up by one. -/
theorem step_inv {s t : State} (h : step s = .next t) :
    ∃ s1 q s2 s3, scheduledIrq s = .ok s1 ∧ ppuClock s1.cart s1.ppu = .ok q ∧ slotPart (s1.setPpu q) = .ok s2 ∧
      nmiPart s2 = .ok s3 ∧ t = s3.setMaster (s3.master + 1) := by
  obtain ⟨s1, h1, h⟩ := Run.bind_ok (toOutcome_eq_next h)
  unfold busClock at h
  obtain ⟨u, h2, h⟩ := Run.bind_ok h
  obtain ⟨s2, h3, h⟩ := Run.bind_ok h
  obtain ⟨s3, h4, h⟩ := Run.bind_ok h
  cases h
  obtain ⟨q, h5, h6⟩ := Run.bind_ok h2
  cases h6
  exact ⟨s1, q, s2, s3, h1, h5, h3, h4, rfl⟩

theorem scheduledIrq_of_not_mem {s : State} (h : s.master ∉ s.irqEvents) : scheduledIrq s = .ok s := by
  simp [scheduledIrq, h]

theorem scheduledIrq_busFrame {s t : State} (h : scheduledIrq s = .ok t) : BusFrame s t := by
  unfold scheduledIrq at h
  split at h
  · exact cpuIrq_busFrame h
  · cases h; exact BusFrame.refl s

/-- NMI delivery: nothing without a request; with one, the request goes and the NMI is entered. -/
theorem nmiPart_cases {s t : State} (h : nmiPart s = .ok t) :
    (s.ppu.nmiReq = false ∧ t = s) ∨
    (s.ppu.nmiReq = true ∧ cpuNmi (s.setPpu { s.ppu with nmiReq := false }) = .ok t) := by
  unfold nmiPart at h
  split at h
  · exact .inr ⟨by assumption, h⟩
  · cases h; exact .inl ⟨by simp_all, rfl⟩

/-- The CPU slot: DMA or the CPU in one step of three, and nothing otherwise. -/
theorem slotPart_cases {s t : State} (h : slotPart s = .ok t) :
    (s.master % 3 ≠ 0 ∧ t = s) ∨ (s.master % 3 = 0 ∧ s.dma.active = true ∧ dmaStep s = .ok t) ∨
    (s.master % 3 = 0 ∧ s.dma.active = false ∧ cpuClock s = .ok t) := by
  unfold slotPart at h
  split at h
  · split at h
    · exact .inr (.inl ⟨by assumption, by assumption, h⟩)
    · exact .inr (.inr ⟨by assumption, by simp_all, h⟩)
  · cases h; exact .inl ⟨by assumption, rfl⟩

end Sys2Proof.Machine
end

