-- ==== Sys2Proof/Tests/Slice0.lean ====
section
/-! SUPPORT. Tests. Every expected value is from the spec: decoding from the opcode table of 30_encoding.md R147, one row of
95_test_vectors.md for each case of a step, a port, the PPU or an interrupt. After them, for each statement that has hypotheses, a
state that meets them. -/

namespace Sys2Proof.Tests

open Sys2Proof.Machine Sys2Proof.Claims

/-! ### Decoding -/

/-- The words of a list decode to the instructions beside them. -/
def decodesAs (l : List (Nat × Nat × Instr)) : Bool := l.all (fun e => decodeTableWord e.1 e.2.1 == some e.2.2)

theorem test_decode_loads : decodesAs
    [(16, 0x34A1, .lda (.izx 0x34)), (16, 0x34A5, .lda (.zp0 0x34)), (16, 0x34A9, .lda (.imm 0x34)),
     (24, 0x1234AD, .lda (.abs 0x1234)), (16, 0x34B1, .lda (.izy 0x34)), (16, 0x34B5, .lda (.zpx 0x34)),
     (24, 0x1234B9, .lda (.aby 0x1234)), (24, 0x1234BD, .lda (.abx 0x1234)), (16, 0x34A2, .ldx (.imm 0x34)),
     (16, 0x34A6, .ldx (.zp0 0x34)), (24, 0x1234AE, .ldx (.abs 0x1234)), (16, 0x34B6, .ldx (.zpy 0x34)),
     (24, 0x1234BE, .ldx (.aby 0x1234)), (16, 0x34A0, .ldy (.imm 0x34)), (16, 0x34A4, .ldy (.zp0 0x34)),
     (24, 0x1234AC, .ldy (.abs 0x1234)), (16, 0x34B4, .ldy (.zpx 0x34)), (24, 0x1234BC, .ldy (.abx 0x1234))] = true := by decide

theorem test_decode_stores : decodesAs
    [(16, 0x3481, .sta (.izx 0x34)), (16, 0x3485, .sta (.zp0 0x34)), (24, 0x12348D, .sta (.abs 0x1234)),
     (16, 0x3491, .sta (.izy 0x34)), (16, 0x3495, .sta (.zpx 0x34)), (24, 0x123499, .sta (.aby 0x1234)),
     (24, 0x12349D, .sta (.abx 0x1234)), (16, 0x3486, .stx (.zp0 0x34)), (24, 0x12348E, .stx (.abs 0x1234)),
     (16, 0x3496, .stx (.zpy 0x34)), (16, 0x3484, .sty (.zp0 0x34)), (24, 0x12348C, .sty (.abs 0x1234)),
     (16, 0x3494, .sty (.zpx 0x34))] = true := by decide

theorem test_decode_transfers_and_stack : decodesAs
    [(8, 0xAA, .tax), (8, 0xA8, .tay), (8, 0x8A, .txa), (8, 0x98, .tya), (8, 0xBA, .tsx), (8, 0x9A, .txs), (8, 0x48, .pha),
     (8, 0x08, .php), (8, 0x68, .pla), (8, 0x28, .plp)] = true := by decide

theorem test_decode_adc_sbc : decodesAs
    [(16, 0x3461, .adc (.izx 0x34)), (16, 0x3465, .adc (.zp0 0x34)), (16, 0x3469, .adc (.imm 0x34)),
     (24, 0x12346D, .adc (.abs 0x1234)), (16, 0x3471, .adc (.izy 0x34)), (16, 0x3475, .adc (.zpx 0x34)),
     (24, 0x123479, .adc (.aby 0x1234)), (24, 0x12347D, .adc (.abx 0x1234)), (16, 0x34E1, .sbc (.izx 0x34)),
     (16, 0x34E5, .sbc (.zp0 0x34)), (16, 0x34E9, .sbc (.imm 0x34)), (24, 0x1234ED, .sbc (.abs 0x1234)),
     (16, 0x34F1, .sbc (.izy 0x34)), (16, 0x34F5, .sbc (.zpx 0x34)), (24, 0x1234F9, .sbc (.aby 0x1234)),
     (24, 0x1234FD, .sbc (.abx 0x1234))] = true := by decide

theorem test_decode_logic : decodesAs
    [(16, 0x3421, .and (.izx 0x34)), (16, 0x3425, .and (.zp0 0x34)), (16, 0x3429, .and (.imm 0x34)),
     (24, 0x12342D, .and (.abs 0x1234)), (16, 0x3431, .and (.izy 0x34)), (16, 0x3435, .and (.zpx 0x34)),
     (24, 0x123439, .and (.aby 0x1234)), (24, 0x12343D, .and (.abx 0x1234)), (16, 0x3401, .ora (.izx 0x34)),
     (16, 0x3405, .ora (.zp0 0x34)), (16, 0x3409, .ora (.imm 0x34)), (24, 0x12340D, .ora (.abs 0x1234)),
     (16, 0x3411, .ora (.izy 0x34)), (16, 0x3415, .ora (.zpx 0x34)), (24, 0x123419, .ora (.aby 0x1234)),
     (24, 0x12341D, .ora (.abx 0x1234)), (16, 0x3441, .eor (.izx 0x34)), (16, 0x3445, .eor (.zp0 0x34)),
     (16, 0x3449, .eor (.imm 0x34)), (24, 0x12344D, .eor (.abs 0x1234)), (16, 0x3451, .eor (.izy 0x34)),
     (16, 0x3455, .eor (.zpx 0x34)), (24, 0x123459, .eor (.aby 0x1234)), (24, 0x12345D, .eor (.abx 0x1234)),
     (16, 0x3424, .bit (.zp0 0x34)), (24, 0x12342C, .bit (.abs 0x1234))] = true := by decide

theorem test_decode_compares : decodesAs
    [(16, 0x34C1, .cmp (.izx 0x34)), (16, 0x34C5, .cmp (.zp0 0x34)), (16, 0x34C9, .cmp (.imm 0x34)),
     (24, 0x1234CD, .cmp (.abs 0x1234)), (16, 0x34D1, .cmp (.izy 0x34)), (16, 0x34D5, .cmp (.zpx 0x34)),
     (24, 0x1234D9, .cmp (.aby 0x1234)), (24, 0x1234DD, .cmp (.abx 0x1234)), (16, 0x34E0, .cpx (.imm 0x34)),
     (16, 0x34E4, .cpx (.zp0 0x34)), (24, 0x1234EC, .cpx (.abs 0x1234)), (16, 0x34C0, .cpy (.imm 0x34)),
     (16, 0x34C4, .cpy (.zp0 0x34)), (24, 0x1234CC, .cpy (.abs 0x1234))] = true := by decide

theorem test_decode_increments : decodesAs
    [(16, 0x34E6, .inc (.zp0 0x34)), (24, 0x1234EE, .inc (.abs 0x1234)), (16, 0x34F6, .inc (.zpx 0x34)),
     (24, 0x1234FE, .inc (.abx 0x1234)), (16, 0x34C6, .dec (.zp0 0x34)), (24, 0x1234CE, .dec (.abs 0x1234)),
     (16, 0x34D6, .dec (.zpx 0x34)), (24, 0x1234DE, .dec (.abx 0x1234)), (8, 0xE8, .inx), (8, 0xC8, .iny), (8, 0xCA, .dex),
     (8, 0x88, .dey)] = true := by decide

theorem test_decode_shifts : decodesAs
    [(16, 0x3406, .asl (.mem (.zp0 0x34))), (8, 0x0A, .asl .acc), (24, 0x12340E, .asl (.mem (.abs 0x1234))),
     (16, 0x3416, .asl (.mem (.zpx 0x34))), (24, 0x12341E, .asl (.mem (.abx 0x1234))), (16, 0x3446, .lsr (.mem (.zp0 0x34))),
     (8, 0x4A, .lsr .acc), (24, 0x12344E, .lsr (.mem (.abs 0x1234))), (16, 0x3456, .lsr (.mem (.zpx 0x34))),
     (24, 0x12345E, .lsr (.mem (.abx 0x1234))), (16, 0x3426, .rol (.mem (.zp0 0x34))), (8, 0x2A, .rol .acc),
     (24, 0x12342E, .rol (.mem (.abs 0x1234))), (16, 0x3436, .rol (.mem (.zpx 0x34))),
     (24, 0x12343E, .rol (.mem (.abx 0x1234))), (16, 0x3466, .ror (.mem (.zp0 0x34))), (8, 0x6A, .ror .acc),
     (24, 0x12346E, .ror (.mem (.abs 0x1234))), (16, 0x3476, .ror (.mem (.zpx 0x34))),
     (24, 0x12347E, .ror (.mem (.abx 0x1234)))] = true := by decide

theorem test_decode_control : decodesAs
    [(24, 0x12344C, .jmp (.abs 0x1234)), (24, 0x12346C, .jmp (.ind 0x1234)), (24, 0x123420, .jsr 0x1234), (8, 0x60, .rts),
     (16, 0x3490, .bcc 0x34), (16, 0x34B0, .bcs 0x34), (16, 0x34F0, .beq 0x34), (16, 0x3430, .bmi 0x34),
     (16, 0x34D0, .bne 0x34), (16, 0x3410, .bpl 0x34), (16, 0x3450, .bvc 0x34), (16, 0x3470, .bvs 0x34)] = true := by decide

theorem test_decode_flags_and_system : decodesAs
    [(8, 0x18, .clc), (8, 0xD8, .cld), (8, 0x58, .cli), (8, 0xB8, .clv), (8, 0x38, .sec), (8, 0xF8, .sed), (8, 0x78, .sei),
     (8, 0xEA, .nop), (16, 0x3400, .brk), (8, 0x40, .rti)] = true := by decide

/-- The 105 bytes of 30_encoding.md R150 are 1-byte instructions whatever follows them. -/
theorem test_decode_undefined : undefinedOpcodes.length = 105 ∧
    undefinedOpcodes.all (fun op => decode [op, 0xA9, 0x55] == .ok (.undef op, [0xA9, 0x55])) = true := by decide

/-- Too few bytes are no instruction; BRK takes its padding byte (30_encoding.md R131). -/
theorem test_decode_short : decode [] = .error .noOpcode ∧ decode [0xA9] = .error (.missingOperand 0xA9) ∧
    decode [0x4C, 0x00] = .error (.missingOperand 0x4C) ∧ decode [0x00] = .error (.missingOperand 0x00) ∧
    decode [0x00, 0xEA] = .ok (.brk, []) := by decide

/-- A table word shorter than the instruction has operand bytes of zeros. -/
theorem test_decode_table_bits : decodeTableWord 8 0xAD = some (.lda (.abs 0x0000)) ∧ decodeTableWord 8 0xA9 = some (.lda (.imm 0x00)) := by
  decide

/-! ### Well-formedness -/

/-- The opcode of a mnemonic is no undefined opcode (30_encoding.md R150). -/
theorem test_wf_undef : (Instr.undef 0xA9).wf = false ∧ (Instr.undef 0x00).wf = false ∧ (Instr.undef 0xEB).wf = true ∧
    (Instr.lda (.imm 0x00)).wf = true := by decide

/-! ### Instructions: one step each (95_test_vectors.md sections 2 to 7) -/

/-- The registers and RAM a vector lists; the defaults are those of 95_test_vectors.md section 0. -/
structure Regs where
  a : Byte := 0x00
  x : Byte := 0x00
  y : Byte := 0x00
  sp : Byte := 0xFD
  p : Byte := 0x20
  ram : List (Nat × Byte) := []

/-- A memory with bytes written. -/
def fill (m : Memory) (l : List (Nat × Byte)) : Memory := l.foldl (fun m e => m.write e.1 e.2) m

/-- PRG of one bank with the bytes at a CPU address and the three vectors: NMI 0x8200, reset 0x8000, IRQ and BRK 0x8100. -/
def prgWith (at_ : Nat) (bytes : List Byte) : Memory :=
  fill [(0x3FFB, 0x82), (0x3FFD, 0x80), (0x3FFF, 0x81)] (bytes.zipIdx.map (fun e => ((at_ + e.2) % 0x4000, e.1)))

/-- The start of a vector: the reset state with the bytes at PC, the registers and RAM listed, and a dispatch due. -/
def start (at_ : Nat) (bytes : List Byte) (r : Regs) : State :=
  { State.reset with
    a := r.a, x := r.x, y := r.y, sp := r.sp, p := r.p, pc := BitVec.ofNat 16 at_, cycles := 0, ram := fill [] r.ram
    cart := { Cart.unloaded with prg := prgWith at_ bytes } }

/-- The outcome is a next state with a property. -/
def nextAnd (o : Host.Outcome State Fault Refusal) (f : State → Bool) : Bool :=
  match o with
  | .next t => f t
  | _ => false

/-- The result is a value with a property. -/
def okAnd {α : Type} (r : Run α) (f : α → Bool) : Bool :=
  match r with
  | .ok a => f a
  | _ => false

/-- One step from the start gives the registers, PC and RAM of the vector, takes `n` cycles, and leaves the cartridge as it was. -/
def runs (at_ : Nat) (bytes : List Byte) (r e : Regs) (pc : Word) (n : Nat) : Bool :=
  nextAnd (step (start at_ bytes r)) (fun t =>
    t.a == e.a && t.x == e.x && t.y == e.y && t.sp == e.sp && t.p == e.p && t.pc == pc && t.cycles + 1 == n &&
      t.ram == fill (fill [] r.ram) e.ram && t.cart == { Cart.unloaded with prg := prgWith at_ bytes })

theorem test_lda :
    runs 0x8000 [0xA9, 0x00] { p := 0xA0 } { p := 0x22 } 0x8002 2 ∧
    runs 0x8000 [0xA9, 0x80] {} { a := 0x80, p := 0xA0 } 0x8002 2 ∧
    runs 0x8000 [0xA5, 0x10] { ram := [(0x010, 0x42)] } { a := 0x42 } 0x8002 3 ∧
    runs 0x8000 [0xB5, 0xFF] { x := 0x02, ram := [(0x001, 0x77)] } { a := 0x77, x := 0x02 } 0x8002 4 ∧
    runs 0x8000 [0xBD, 0xFF, 0x02] { x := 0x01, ram := [(0x300, 0x99)] } { a := 0x99, x := 0x01, p := 0xA0 } 0x8003 5 ∧
    runs 0x8000 [0xBD, 0x00, 0x02] { x := 0x01, ram := [(0x201, 0x99)] } { a := 0x99, x := 0x01, p := 0xA0 } 0x8003 4 ∧
    runs 0x8000 [0xA1, 0xFE] { x := 0x01, ram := [(0x000, 0x02), (0x0FF, 0x34), (0x234, 0x5A)] } { a := 0x5A, x := 0x01 } 0x8002 6 ∧
    runs 0x8000 [0xB1, 0xFF] { y := 0x10, ram := [(0x000, 0x03), (0x0FF, 0xF8), (0x408, 0x11)] } { a := 0x11, y := 0x10 } 0x8002 6 ∧
    runs 0x8000 [0xAD, 0x07, 0x08] { ram := [(0x007, 0x3C)] } { a := 0x3C } 0x8003 4 ∧
    runs 0x8000 [0xAD, 0x00, 0x50] { a := 0x55 } { p := 0x22 } 0x8003 4 := by decide

theorem test_ldx :
    runs 0x8000 [0xB6, 0xF0] { y := 0x20, ram := [(0x010, 0x01)] } { x := 0x01, y := 0x20 } 0x8002 4 ∧
    runs 0x8000 [0xBE, 0xFF, 0x02] { y := 0xFF, ram := [(0x3FE, 0xFE)] } { x := 0xFE, y := 0xFF, p := 0xA0 } 0x8003 5 := by decide

theorem test_ldy :
    runs 0x8000 [0xBC, 0x80, 0x02] { x := 0x05, y := 0x12, ram := [(0x285, 0x00)] } { x := 0x05, p := 0x22 } 0x8003 4 := by decide

theorem test_sta :
    runs 0x8000 [0x85, 0x10] { a := 0x80, p := 0x23 } { a := 0x80, p := 0x23, ram := [(0x010, 0x80)] } 0x8002 3 ∧
    runs 0x8000 [0x9D, 0xFF, 0x02] { a := 0x12, x := 0x01 } { a := 0x12, x := 0x01, ram := [(0x300, 0x12)] } 0x8003 5 ∧
    runs 0x8000 [0x91, 0x10] { a := 0x34, y := 0x01, ram := [(0x010, 0xFF), (0x011, 0x02)] } { a := 0x34, y := 0x01, ram := [(0x300, 0x34)] } 0x8002 6 := by decide

theorem test_stx :
    runs 0x8000 [0x96, 0xFF] { x := 0xAB, y := 0x02 } { x := 0xAB, y := 0x02, ram := [(0x001, 0xAB)] } 0x8002 4 := by decide

theorem test_sty :
    runs 0x8000 [0x8C, 0x00, 0x18] { y := 0x5E } { y := 0x5E, ram := [(0x000, 0x5E)] } 0x8003 4 := by decide

theorem test_tax :
    runs 0x8000 [0xAA] { a := 0x80 } { a := 0x80, x := 0x80, p := 0xA0 } 0x8001 2 := by decide

theorem test_tay :
    runs 0x8000 [0xA8] { y := 0x33 } { p := 0x22 } 0x8001 2 := by decide

theorem test_txa :
    runs 0x8000 [0x8A] { x := 0x7F, p := 0x22 } { a := 0x7F, x := 0x7F } 0x8001 2 := by decide

theorem test_tya :
    runs 0x8000 [0x98] { y := 0xC0 } { a := 0xC0, y := 0xC0, p := 0xA0 } 0x8001 2 := by decide

theorem test_tsx :
    runs 0x8000 [0xBA] { x := 0x55, sp := 0x00 } { sp := 0x00, p := 0x22 } 0x8001 2 := by decide

theorem test_txs :
    runs 0x8000 [0x9A] {} { sp := 0x00 } 0x8001 2 := by decide

theorem test_pha :
    runs 0x8000 [0x48] { a := 0x3C, sp := 0x00 } { a := 0x3C, sp := 0xFF, ram := [(0x100, 0x3C)] } 0x8001 3 := by decide

theorem test_php :
    runs 0x8000 [0x08] { p := 0xE3 } { sp := 0xFC, p := 0xE3, ram := [(0x1FD, 0xF3)] } 0x8001 3 := by decide

theorem test_pla :
    runs 0x8000 [0x68] { sp := 0xFF, ram := [(0x100, 0x00)] } { sp := 0x00, p := 0x22 } 0x8001 4 := by decide

theorem test_plp :
    runs 0x8000 [0x28] { sp := 0xFC, ram := [(0x1FD, 0xFF)] } { p := 0xEF } 0x8001 4 ∧
    runs 0x8000 [0x28] { sp := 0xFC, p := 0xEF, ram := [(0x1FD, 0x00)] } {} 0x8001 4 := by decide

theorem test_adc :
    runs 0x8000 [0x69, 0x50] { a := 0x50 } { a := 0xA0, p := 0xE0 } 0x8002 2 ∧
    runs 0x8000 [0x69, 0x01] { a := 0xFF } { p := 0x23 } 0x8002 2 ∧
    runs 0x8000 [0x69, 0x01] { a := 0x7F } { a := 0x80, p := 0xE0 } 0x8002 2 ∧
    runs 0x8000 [0x69, 0x80] { a := 0x80 } { p := 0x63 } 0x8002 2 ∧
    runs 0x8000 [0x69, 0x00] { a := 0xFF, p := 0x21 } { p := 0x23 } 0x8002 2 ∧
    runs 0x8000 [0x69, 0x01] { a := 0x09, p := 0x28 } { a := 0x0A, p := 0x28 } 0x8002 2 ∧
    runs 0x8000 [0x6D, 0xFF, 0x12] { a := 0x01, ram := [(0x2FF, 0x10)] } { a := 0x11 } 0x8003 4 := by decide

theorem test_sbc :
    runs 0x8000 [0xE9, 0x01] { p := 0x21 } { a := 0xFF, p := 0xA0 } 0x8002 2 ∧
    runs 0x8000 [0xE9, 0x01] { a := 0x80, p := 0x21 } { a := 0x7F, p := 0x61 } 0x8002 2 ∧
    runs 0x8000 [0xE9, 0xB0] { a := 0x50, p := 0x21 } { a := 0xA0, p := 0xE0 } 0x8002 2 ∧
    runs 0x8000 [0xE9, 0x03] { a := 0x05 } { a := 0x01, p := 0x21 } 0x8002 2 ∧
    runs 0x8000 [0xE9, 0x05] { a := 0x05, p := 0x21 } { p := 0x23 } 0x8002 2 := by decide

theorem test_and :
    runs 0x8000 [0x29, 0x0F] { a := 0xF0 } { p := 0x22 } 0x8002 2 := by decide

theorem test_ora :
    runs 0x8000 [0x09, 0x0F] { a := 0xF0 } { a := 0xFF, p := 0xA0 } 0x8002 2 := by decide

theorem test_eor :
    runs 0x8000 [0x49, 0xFF] { a := 0x0F } { a := 0xF0, p := 0xA0 } 0x8002 2 := by decide

theorem test_cmp :
    runs 0x8000 [0xC9, 0x40] { a := 0x40 } { a := 0x40, p := 0x23 } 0x8002 2 ∧
    runs 0x8000 [0xC9, 0x41] { a := 0x40 } { a := 0x40, p := 0xA0 } 0x8002 2 ∧
    runs 0x8000 [0xC9, 0x01] { a := 0xFF } { a := 0xFF, p := 0xA1 } 0x8002 2 := by decide

theorem test_cpx :
    runs 0x8000 [0xE0, 0x10] { x := 0x20 } { x := 0x20, p := 0x21 } 0x8002 2 := by decide

theorem test_cpy :
    runs 0x8000 [0xC0, 0x80] {} { p := 0xA0 } 0x8002 2 := by decide

theorem test_bit :
    runs 0x8000 [0x24, 0x10] { a := 0x0F, ram := [(0x010, 0xC0)] } { a := 0x0F, p := 0xE2 } 0x8002 3 ∧
    runs 0x8000 [0x2C, 0x00, 0x02] { a := 0x01, p := 0xE2, ram := [(0x200, 0x01)] } { a := 0x01 } 0x8003 4 := by decide

theorem test_inc :
    runs 0x8000 [0xE6, 0x10] { ram := [(0x010, 0xFF)] } { p := 0x22, ram := [(0x010, 0x00)] } 0x8002 5 ∧
    runs 0x8000 [0xFE, 0xFF, 0x02] { x := 0x01, ram := [(0x300, 0x7F)] } { x := 0x01, p := 0xA0, ram := [(0x300, 0x80)] } 0x8003 7 := by decide

theorem test_dec :
    runs 0x8000 [0xC6, 0x10] { ram := [(0x010, 0x00)] } { p := 0xA0, ram := [(0x010, 0xFF)] } 0x8002 5 := by decide

theorem test_inx :
    runs 0x8000 [0xE8] { x := 0xFF } { p := 0x22 } 0x8001 2 := by decide

theorem test_iny :
    runs 0x8000 [0xC8] { y := 0x7F } { y := 0x80, p := 0xA0 } 0x8001 2 := by decide

theorem test_dex :
    runs 0x8000 [0xCA] { x := 0x01 } { p := 0x22 } 0x8001 2 := by decide

theorem test_dey :
    runs 0x8000 [0x88] {} { y := 0xFF, p := 0xA0 } 0x8001 2 := by decide

theorem test_asl :
    runs 0x8000 [0x0A] { a := 0x80 } { p := 0x23 } 0x8001 2 ∧
    runs 0x8000 [0x0A] { a := 0x41, p := 0x21 } { a := 0x82, p := 0xA0 } 0x8001 2 ∧
    runs 0x8000 [0x06, 0x10] { ram := [(0x010, 0xC1)] } { p := 0xA1, ram := [(0x010, 0x82)] } 0x8002 5 ∧
    runs 0x8000 [0x1E, 0xFF, 0x02] { x := 0x01, ram := [(0x300, 0x01)] } { x := 0x01, ram := [(0x300, 0x02)] } 0x8003 7 := by decide

theorem test_lsr :
    runs 0x8000 [0x4A] { a := 0x01 } { p := 0x23 } 0x8001 2 ∧
    runs 0x8000 [0x4A] { a := 0xFF, p := 0xA0 } { a := 0x7F, p := 0x21 } 0x8001 2 ∧
    runs 0x8000 [0x46, 0x10] { ram := [(0x010, 0x03)] } { p := 0x21, ram := [(0x010, 0x01)] } 0x8002 5 ∧
    runs 0x8000 [0x5E, 0x00, 0x02] { x := 0x01, ram := [(0x201, 0x80)] } { x := 0x01, ram := [(0x201, 0x40)] } 0x8003 7 := by decide

theorem test_rol :
    runs 0x8000 [0x2A] { a := 0x80, p := 0x21 } { a := 0x01, p := 0x21 } 0x8001 2 ∧
    runs 0x8000 [0x26, 0x10] { p := 0x21, ram := [(0x010, 0x40)] } { p := 0xA0, ram := [(0x010, 0x81)] } 0x8002 5 := by decide

theorem test_ror :
    runs 0x8000 [0x6A] { a := 0x01, p := 0x21 } { a := 0x80, p := 0xA1 } 0x8001 2 ∧
    runs 0x8000 [0x6A] { a := 0x02 } { a := 0x01 } 0x8001 2 ∧
    runs 0x8000 [0x6E, 0x00, 0x02] { ram := [(0x200, 0x01)] } { p := 0x23, ram := [(0x200, 0x00)] } 0x8003 6 := by decide

theorem test_jmp :
    runs 0x8000 [0x4C, 0x34, 0x12] {} {} 0x1234 3 ∧
    runs 0x8000 [0x6C, 0xFF, 0x02] { ram := [(0x200, 0x12), (0x2FF, 0x34), (0x300, 0x56)] } {} 0x1234 5 ∧
    runs 0x8000 [0x6C, 0x00, 0x02] { ram := [(0x200, 0x00), (0x201, 0x90)] } {} 0x9000 5 := by decide

theorem test_jsr :
    runs 0x8000 [0x20, 0x00, 0x90] {} { sp := 0xFB, ram := [(0x1FC, 0x02), (0x1FD, 0x80)] } 0x9000 6 ∧
    runs 0x8000 [0x20, 0x00, 0x90] { sp := 0x00 } { sp := 0xFE, ram := [(0x100, 0x80), (0x1FF, 0x02)] } 0x9000 6 := by decide

theorem test_rts :
    runs 0x8000 [0x60] { sp := 0xFB, ram := [(0x1FC, 0x02), (0x1FD, 0x80)] } {} 0x8003 6 ∧
    runs 0x8000 [0x60] { sp := 0xFB, ram := [(0x1FC, 0xFF), (0x1FD, 0xFF)] } {} 0x0000 6 := by decide

theorem test_bcc :
    runs 0x8010 [0x90, 0x10] {} {} 0x8022 3 ∧
    runs 0x8010 [0x90, 0x10] { p := 0x21 } { p := 0x21 } 0x8012 2 := by decide

theorem test_bcs :
    runs 0x8010 [0xB0, 0x10] { p := 0x21 } { p := 0x21 } 0x8022 3 := by decide

theorem test_beq :
    runs 0x80F0 [0xF0, 0x20] { p := 0x22 } { p := 0x22 } 0x8112 4 ∧
    runs 0x8080 [0xF0, 0x7E] { p := 0x22 } { p := 0x22 } 0x8100 4 := by decide

theorem test_bne :
    runs 0x8105 [0xD0, 0xF0] {} {} 0x80F7 4 ∧
    runs 0x8000 [0xD0, 0x05] { p := 0x22 } { p := 0x22 } 0x8002 2 := by decide

theorem test_bmi :
    runs 0x8000 [0x30, 0xFE] { p := 0xA0 } { p := 0xA0 } 0x8000 3 := by decide

theorem test_bpl :
    runs 0x8000 [0x10, 0x00] {} {} 0x8002 3 := by decide

theorem test_bvc :
    runs 0xFFF0 [0x50, 0x7F] {} {} 0x0071 4 := by decide

theorem test_bvs :
    runs 0x8000 [0x70, 0x80] { p := 0x60 } { p := 0x60 } 0x7F82 4 ∧
    runs 0x8000 [0x70, 0x80] {} {} 0x8002 2 := by decide

theorem test_clc :
    runs 0x8000 [0x18] { p := 0x21 } {} 0x8001 2 := by decide

theorem test_sec :
    runs 0x8000 [0x38] {} { p := 0x21 } 0x8001 2 := by decide

theorem test_cli :
    runs 0x8000 [0x58] { p := 0x24 } {} 0x8001 2 := by decide

theorem test_sei :
    runs 0x8000 [0x78] {} { p := 0x24 } 0x8001 2 := by decide

theorem test_cld :
    runs 0x8000 [0xD8] { p := 0x28 } {} 0x8001 2 := by decide

theorem test_sed :
    runs 0x8000 [0xF8] {} { p := 0x28 } 0x8001 2 := by decide

theorem test_clv :
    runs 0x8000 [0xB8] { p := 0x60 } {} 0x8001 2 := by decide

theorem test_nop :
    runs 0x8000 [0xEA] { a := 0x11, p := 0xE3 } { a := 0x11, p := 0xE3 } 0x8001 2 := by decide

theorem test_brk :
    runs 0x8000 [0x00, 0xEA] { p := 0x21 } { sp := 0xFA, p := 0x25, ram := [(0x1FB, 0x31), (0x1FC, 0x02), (0x1FD, 0x80)] } 0x8100 7 ∧
    runs 0x8000 [0x00, 0xEA] { sp := 0x01, p := 0x24 } { sp := 0xFE, p := 0x24, ram := [(0x100, 0x02), (0x101, 0x80), (0x1FF, 0x34)] } 0x8100 7 := by decide

theorem test_rti :
    runs 0x8000 [0x40] { sp := 0xFA, ram := [(0x1FB, 0x31), (0x1FC, 0x02), (0x1FD, 0x80)] } { p := 0x21 } 0x8002 6 ∧
    runs 0x8000 [0x40] { sp := 0xFA, ram := [(0x1FB, 0xDF), (0x1FC, 0x34), (0x1FD, 0x12)] } { p := 0xEF } 0x1234 6 := by decide

theorem test_undefined :
    runs 0x8000 [0x02, 0xA9, 0x55] { a := 0x11 } { a := 0x11 } 0x8001 2 ∧
    runs 0x8000 [0x80, 0xA9, 0x55] { a := 0x11 } { a := 0x11 } 0x8001 2 ∧
    runs 0x8000 [0x0C, 0xA9, 0x55] { a := 0x11 } { a := 0x11 } 0x8001 4 ∧
    runs 0x8000 [0x9E, 0xA9, 0x55] { a := 0x11 } { a := 0x11 } 0x8001 5 ∧
    runs 0x8000 [0xFF, 0xA9, 0x55] { a := 0x11 } { a := 0x11 } 0x8001 7 ∧
    runs 0x8000 [0x03, 0xA9, 0x55] { a := 0x11 } { a := 0x11 } 0x8001 8 := by decide
/-! ### Bus, ports and PPU memory (95_test_vectors.md section 8) -/

/-- The reset state with another PPU. -/
def withPpu (q : Ppu) : State := State.reset.setPpu q

/-- Bus writes in order. -/
def writes : List (Word × Byte) → State → Run State
  | [], s => .ok s
  | (a, v) :: l, s => do
    let s ← busWrite a v s
    writes l s

/-- A CNROM cartridge of four CHR banks, the byte at 0x6010 of CHR listed. -/
def cnromFour : Cart := { Cart.unloaded with chr := [(0x6010, 0x77)], chrBanks := 4, mapper := .cnrom 0 }

/-- Q1, Q2: PPUADDR in two writes. -/
theorem test_port_addr :
    okAnd (writes [(0x2006, 0x21)] State.reset) (fun s => s.ppu.t == 0x2100 && s.ppu.w && s.ppu.v == 0) = true ∧
    okAnd (writes [(0x2006, 0x21), (0x2006, 0x08)] State.reset) (fun s => s.ppu.t == 0x2108 && s.ppu.v == 0x2108 && !s.ppu.w) = true ∧
    okAnd (writes [(0x2006, 0xFF), (0x2006, 0x00)] State.reset) (fun s => s.ppu.t == 0x3F00 && s.ppu.v == 0x3F00) = true := by decide

/-- Q3, Q4: PPUSCROLL in two writes, and PPUCTRL's nametable bits. -/
theorem test_port_scroll_ctrl :
    okAnd (writes [(0x2005, 0x7D)] State.reset) (fun s => s.ppu.fineX == 5 && s.ppu.t == 0x000F && s.ppu.w) = true ∧
    okAnd (writes [(0x2005, 0x7D), (0x2005, 0x5E)] State.reset) (fun s => s.ppu.t == 0x616F && s.ppu.v == 0 && !s.ppu.w) = true ∧
    okAnd (writes [(0x2000, 0x03)] (withPpu { Ppu.reset with t := 0x616F })) (fun s => s.ppu.t == 0x6D6F && s.ppu.ctrl == 0x03) = true := by
  decide

/-- Q5, Q11: a PPUSTATUS read clears the latch and vertical blank. -/
theorem test_port_status :
    okAnd (do
      let s ← writes [(0x2005, 0x10)] State.reset
      let (_, s) ← busRead 0x2002 s
      writes [(0x2006, 0x23), (0x2006, 0xC0)] s) (fun s => s.ppu.v == 0x23C0) = true ∧
    okAnd (busRead 0x2002 (withPpu { Ppu.reset with status := 0xE0, dataBuffer := 0x3F, w := true }))
      (fun r => r.1 == 0xFF && r.2.ppu.status == 0x60 && !r.2.ppu.w) = true := by decide

/-- Q6, Q7, Q8: PPUDATA reads: buffered, palette at once, grayscale. -/
theorem test_port_data_read :
    okAnd (do
      let s := (withPpu { Ppu.reset with v := 0x2000, nt0 := [(0, 0xAB), (1, 0xCD)] }).setCart { Cart.unloaded with mirroring := .vertical }
      let (b, s) ← busRead 0x2007 s
      let (b', s') ← busRead 0x2007 s
      .ok (b == 0x00 && s.ppu.dataBuffer == 0xAB && s.ppu.v == 0x2001 && b' == 0xAB && s'.ppu.dataBuffer == 0xCD && s'.ppu.v == 0x2002))
      id = true ∧
    okAnd (busRead 0x2007 (withPpu { Ppu.reset with v := 0x3F00, pal := [(0, 0x0F)] }))
      (fun r => r.1 == 0x0F && r.2.ppu.dataBuffer == 0x0F && r.2.ppu.v == 0x3F01) = true ∧
    okAnd (busRead 0x2007 (withPpu { Ppu.reset with v := 0x3F01, pal := [(1, 0x2D)], mask := 0x01 })) (fun r => r.1 == 0x20) = true := by
  decide

/-- Q9, Q10: PPUDATA writes: the step of `v` and its wrap. -/
theorem test_port_data_write :
    okAnd (busWrite 0x2007 0x55 (withPpu { Ppu.reset with ctrl := 0x04, v := 0x2000 }))
      (fun s => s.ppu.nt0 == [(0, 0x55)] && s.ppu.v == 0x2020) = true ∧
    okAnd (busWrite 0x2007 0x01 (withPpu { Ppu.reset with v := 0x7FFF })) (fun s => s.ppu.pal == [(0x1F, 0x01)] && s.ppu.v == 0x0000) = true := by
  decide

/-- Q12 to Q15: the write-only ports, OAMADDR and OAMDATA, port mirrors, PPUSTATUS writes. -/
theorem test_port_others :
    [0x2000, 0x2001, 0x2003, 0x2005, 0x2006].all (fun a => okAnd (busRead a State.reset) (fun r => r.1 == 0x00 && r.2 == State.reset)) = true ∧
    okAnd (do
      let s ← writes [(0x2003, 0xFE), (0x2004, 0x11), (0x2004, 0x22)] (withPpu { Ppu.reset with oam := [(0, 0x99)] })
      busRead 0x2004 s) (fun r => r.1 == 0x99 && r.2.ppu.oam == [(0, 0x99), (0xFE, 0x11), (0xFF, 0x22)] && r.2.ppu.oamAddr == 0x00) = true ∧
    okAnd (writes [(0x3FFE, 0x21), (0x2FFE, 0x00)] State.reset) (fun s => s.ppu.v == 0x2100) = true ∧
    okAnd (busWrite 0x2002 0xFF State.reset) (fun s => s == State.reset) = true := by decide

/-- W1 to W3: nametable mirroring. -/
theorem test_nametables :
    okAnd (do
      let (c, q) ← ppuWrite { Cart.unloaded with mirroring := .vertical } Ppu.reset 0x2805 0x11
      let b ← ppuRead c q 0x2005
      .ok (q.nt0 == [(5, 0x11)] && b == 0x11)) id = true ∧
    okAnd (do
      let (c, q) ← ppuWrite Cart.unloaded Ppu.reset 0x2405 0x22
      let (c, q) ← ppuWrite c q 0x2C05 0x33
      let b ← ppuRead c q 0x2005
      let b' ← ppuRead c q 0x2805
      .ok (q.nt0 == [(5, 0x22)] && q.nt1 == [(5, 0x33)] && b == 0x22 && b' == 0x33)) id = true ∧
    okAnd (ppuRead { Cart.unloaded with mirroring := .vertical } { Ppu.reset with nt1 := [(5, 0x44)] } 0x3405) (· == 0x44) = true := by decide

/-- W4 to W6: palette mirrors and the 14-bit address. -/
theorem test_palette :
    okAnd (do
      let (c, q) ← ppuWrite Cart.unloaded Ppu.reset 0x3F10 0x21
      let b ← ppuRead c q 0x3F00
      .ok (q.pal == [(0, 0x21)] && b == 0x21)) id = true ∧
    okAnd (ppuWrite Cart.unloaded Ppu.reset 0x3F25 0x05) (fun r => r.2.pal == [(5, 0x05)]) = true ∧
    okAnd (ppuRead Cart.unloaded { Ppu.reset with pal := [(0, 0xFF)] } 0x7F00) (· == 0x3F) = true := by decide

/-- W7 to W10: the pattern region under the two mappers, and the one fault. -/
theorem test_mappers :
    okAnd (do
      let (c, q) ← ppuWrite Cart.unloaded Ppu.reset 0x0123 0x9A
      let b ← ppuRead c q 0x0123
      .ok (c.chr == [(0x0123, 0x9A)] && b == 0x9A)) id = true ∧
    okAnd (do
      let s ← busWrite 0x8000 0x07 (State.reset.setCart cnromFour)
      let b ← ppuRead s.cart s.ppu 0x0010
      .ok (s.cart.mapper == .cnrom 3 && b == 0x77 && s.cart.prg == [])) id = true ∧
    okAnd (do
      let (c, q) ← ppuWrite cnromFour Ppu.reset 0x0010 0x44
      let b ← ppuRead c q 0x0010
      .ok (q.pt0 == [(0x010, 0x44)] && b == 0x00 && c == cnromFour)) id = true ∧
    (do
      let s ← busWrite 0x8000 0x01 (State.reset.setCart { Cart.unloaded with chrBanks := 1, mapper := .cnrom 0 })
      ppuRead s.cart s.ppu 0x0000) = .error (.fault .cartOffsetOutOfRange) := by decide

/-- W11, W12: PRG is writable under NROM and mirrored in one bank; open bus. -/
theorem test_prg_and_open_bus :
    okAnd (do
      let s ← busWrite 0xC000 0x5A State.reset
      busRead 0x8000 s) (fun r => r.1 == 0x5A && r.2.cart.prg == [(0, 0x5A)]) = true ∧
    busRead 0x6000 State.reset = .ok (0x00, State.reset) ∧ busRead 0x4014 State.reset = .ok (0x00, State.reset) ∧
    busWrite 0x4015 0xFF State.reset = .ok State.reset := by decide

/-- L1 to L9: the increments of `v`. -/
theorem test_scroll_increments :
    (incrementX { Ppu.reset with mask := 0x18, v := 0x0005 }).v = 0x0006 ∧ (incrementX { Ppu.reset with mask := 0x18, v := 0x001F }).v = 0x0400 ∧
    (incrementX { Ppu.reset with mask := 0x18, v := 0x041F }).v = 0x0000 ∧ (incrementY { Ppu.reset with mask := 0x18, v := 0x3000 }).v = 0x4000 ∧
    (incrementY { Ppu.reset with mask := 0x18, v := 0x73A0 }).v = 0x0800 ∧ (incrementY { Ppu.reset with mask := 0x18, v := 0x73E0 }).v = 0x0000 ∧
    (incrementY { Ppu.reset with mask := 0x18, v := 0x7BE0 }).v = 0x0800 ∧ (incrementY { Ppu.reset with mask := 0x18, v := 0x7140 }).v = 0x0160 ∧
    (incrementY { Ppu.reset with mask := 0x00, v := 0x73A0 }).v = 0x73A0 := by decide

/-- L10 to L13: the transfers of `t`, and the attribute fetch. -/
theorem test_scroll_transfers :
    (transferX { Ppu.reset with mask := 0x18, v := 0x7FFF, t := 0x0000 }).v = 0x7BE0 ∧
    (transferY { Ppu.reset with mask := 0x18, v := 0x0000, t := 0x7BE0 }).v = 0x7BE0 ∧
    attributeAddr 0x00C5 = 0x23C9 ∧ attributeQuadrant 0x00C5 0xE4 = 2 ∧ attributeAddr 0x0FBE = 0x2FFF := by decide

/-- OAM with the listed Y of the first sprites and 0xFF in every other byte 0. -/
def oamOf (ys : List Byte) : Memory :=
  fill (fill [] ((List.range 64).map (fun n => (4 * n, 0xFF)))) (ys.zipIdx.map (fun e => (4 * e.2, e.1)))

set_option maxRecDepth 20000 in
/-- E1, E2: nine and eight sprites in range of scanline 10. -/
theorem test_sprite_overflow :
    [spriteEvaluate { Ppu.reset with scanline := 10, oam := oamOf (List.replicate 9 5) }].all (fun q =>
      q.sprCount.val == 8 && q.status == 0x20 && q.spr0Possible && q.spr.map SpriteSlot.y == List.replicate 8 5) = true ∧
    [spriteEvaluate { Ppu.reset with scanline := 10, status := 0x20, oam := oamOf (List.replicate 8 5) }].all (fun q =>
      q.sprCount.val == 8 && q.status == 0x00) = true := by decide

set_option maxRecDepth 20000 in
/-- E4 to E6: which sprites are in range of scanline 10. -/
theorem test_sprite_evaluation :
    [spriteEvaluate { Ppu.reset with scanline := 10, oam := oamOf [3, 2, 10, 11] }].all (fun q =>
      q.sprCount.val == 2 && q.spr.map SpriteSlot.y == [3, 10] ++ List.replicate 6 0xFF) = true ∧
    [spriteEvaluate { Ppu.reset with scanline := 10, ctrl := 0x20, oam := oamOf [3, 2, 10, 11] }].all (fun q => q.sprCount.val == 3) = true ∧
    [spriteEvaluate { Ppu.reset with scanline := 10, oam := oamOf [0xFF, 0xFF, 0xFF, 0xFF, 0xFF, 10] }].all (fun q =>
      q.sprCount.val == 1 && !q.spr0Possible) = true := by decide

/-- A sprite slot of section 8.4. -/
def slotOf (id attr : Byte) : SpriteSlot := { y := 20, id := id, attr := attr, x := 9, patLo := 0, patHi := 0 }

/-- F1 to F6: the pattern row of a sprite, and horizontal flip. -/
theorem test_sprite_fetch :
    spritePatternAddr Ppu.reset (slotOf 0x42 0x00) 3 = 0x0423 ∧ spritePatternAddr Ppu.reset (slotOf 0x42 0x80) 3 = 0x0424 ∧
    okAnd (fetchSprite { Cart.unloaded with chr := [(0x0423, 0x01), (0x042B, 0x03)] } { Ppu.reset with scanline := 23 } (slotOf 0x42 0x40))
      (fun s => s.patLo == 0x80 && s.patHi == 0xC0) = true ∧
    spritePatternAddr { Ppu.reset with ctrl := 0x20 } (slotOf 0x43 0x00) 11 = 0x1433 ∧
    spritePatternAddr { Ppu.reset with ctrl := 0x20 } (slotOf 0x43 0x80) 11 = 0x1424 ∧
    spritePatternAddr { Ppu.reset with ctrl := 0x20 } (slotOf 0x42 0x00) 2 = 0x0422 := by decide

/-- A PPU in which both pixels opaque hit sprite zero, but for the mask and the cycle. -/
def hitPpu (mask : Byte) (cycle : Nat) : Ppu := { Ppu.reset with mask := mask, cycle := cycle, spr0Possible := true, spr0Rendering := true }

/-- X1 to X8: priority and the sprite-zero hit. -/
theorem test_priority :
    (priority (0, 0) ⟨0, 0, false, false⟩ Ppu.reset).1 = (0, 0) ∧ paletteAddr (0, 0) = 0x3F00 ∧
    (priority (2, 1) ⟨0, 0, false, false⟩ Ppu.reset).1 = (2, 1) ∧ paletteAddr (2, 1) = 0x3F06 ∧
    (priority (0, 0) ⟨3, 5, false, false⟩ Ppu.reset).1 = (3, 5) ∧ paletteAddr (3, 5) = 0x3F17 ∧
    (priority (1, 0) ⟨2, 4, true, false⟩ Ppu.reset).1 = (2, 4) ∧ (priority (1, 0) ⟨2, 4, false, false⟩ Ppu.reset).1 = (1, 0) ∧
    (priority (1, 0) ⟨2, 4, true, true⟩ (hitPpu 0x1E 5)).2.status = 0x40 ∧ (priority (1, 0) ⟨2, 4, true, true⟩ (hitPpu 0x1A 5)).2.status = 0x00 ∧
    (priority (1, 0) ⟨2, 4, true, true⟩ (hitPpu 0x1E 258)).2.status = 0x00 ∧
    (priority (1, 0) ⟨2, 4, true, true⟩ (hitPpu 0x1E 257)).2.status = 0x40 := by decide

/-- X9 to X12: the background off, the palette entry of a pixel, and the background multiplexer. -/
theorem test_composition :
    backgroundPixel (hitPpu 0x10 5) = (0, 0) ∧
    okAnd (composePixel Cart.unloaded { Ppu.reset with
        mask := 0x10, scanline := 7, cycle := 20, pal := [(0x17, 0x16)], sprCount := 1
        spr := [{ y := 0, id := 0, attr := 0x01, x := 0, patLo := 0x80, patHi := 0x80 }] })
      (fun q => q.pixel == some { x := 19, y := 7, colourIndex := 0x16, emphasis := 0 }) = true ∧
    okAnd (composePixel Cart.unloaded { Ppu.reset with
        mask := 0x11, scanline := 7, cycle := 20, pal := [(0x17, 0x16)], sprCount := 1
        spr := [{ y := 0, id := 0, attr := 0x01, x := 0, patLo := 0x80, patHi := 0x80 }] })
      (fun q => q.pixel == some { x := 19, y := 7, colourIndex := 0x10, emphasis := 0 }) = true ∧
    backgroundPixel { Ppu.reset with fineX := 3, bgPatLo := 0x1000, bgAttLo := 0xFFFF, bgAttHi := 0xFFFF, mask := 0x0A, cycle := 20 } = (1, 3) := by
  decide

/-! ### Frame timing, interrupts, DMA, reset (sections 9 to 11) -/

/-- Section 10: vertical blank, the pre-render clear, the frame wrap, and the skip of an odd frame's first cycle. -/
theorem test_frame_timing :
    okAnd (ppuClock Cart.unloaded { Ppu.reset with scanline := 241, cycle := 1 }) (fun q => q.status == 0x80 && q.cycle == 2 && !q.nmiReq) = true ∧
    okAnd (ppuClock Cart.unloaded { Ppu.reset with scanline := -1, cycle := 1, status := 0xE0 }) (fun q => q.status == 0x00) = true ∧
    okAnd (ppuClock Cart.unloaded { Ppu.reset with scanline := 260, cycle := 340 })
      (fun q => q.scanline == -1 && q.cycle == 0 && q.frameComplete && q.oddFrame) = true ∧
    okAnd (ppuClock Cart.unloaded { Ppu.reset with oddFrame := true, mask := 0x08 }) (fun q => q.scanline == 0 && q.cycle == 2) = true := by
  decide

/-- I1: the IRQ entry. With I set it does nothing (I2). -/
theorem test_irq :
    okAnd (cpuIrq { start 0x8000 [0xEA, 0xEA] {} with pc := 0x8002 }) (fun s => s.p == 0x24 && s.sp == 0xFA && s.cycles == 7 && s.pc == 0x8100 &&
      s.ram == [(0x1FB, 0x20), (0x1FC, 0x02), (0x1FD, 0x80)]) = true ∧
    cpuIrq (start 0x8000 [] { p := 0x24 }) = .ok (start 0x8000 [] { p := 0x24 }) := by decide

/-- I3: a scheduled IRQ and the NMI of vertical blank in one step. -/
theorem test_irq_then_nmi :
    nextAnd (step { start 0x8005 [0x4C, 0x05, 0x80] { p := 0xA0 } with
        cycles := 1, master := 82182, irqEvents := [82182], ppu := { Ppu.reset with ctrl := 0x80, scanline := 241, cycle := 1 } })
      (fun s => s.sp == 0xF7 && s.cycles == 8 && s.pc == 0x8200 && s.p == 0xA4 && s.ppu.status == 0x80 && s.ram ==
        [(0x1F8, 0xA4), (0x1FA, 0x81), (0x1FB, 0xA0), (0x1FC, 0x05), (0x1FD, 0x80)]) = true := by decide

/-- DMA6 and 60_exceptions.md R340: the wait for alignment, a read slot, and the last write slot. -/
theorem test_dma :
    okAnd (dmaStep { State.reset with master := 30, dma := { page := 2, offset := 0, data := 0, align := true, active := true } })
      (fun s => !s.dma.align && s.dma.active) = true ∧
    okAnd (dmaStep { State.reset with master := 33, dma := { page := 2, offset := 0, data := 0, align := true, active := true } })
      (fun s => s.dma.align) = true ∧
    okAnd (dmaStep { State.reset with master := 33, ram := [(0x203, 0x59)], dma := { page := 2, offset := 3, data := 0, align := false, active := true } })
      (fun s => s.dma.data == 0x59 && s.dma.offset == 3) = true ∧
    okAnd (dmaStep { withPpu { Ppu.reset with oamAddr := 0x10 } with
        master := 36, dma := { page := 2, offset := 0xFF, data := 0xA5, align := false, active := true } })
      (fun s => s.ppu.oam == [(0xFF, 0xA5)] && s.ppu.oamAddr == 0x10 && !s.dma.active && s.dma.offset == 0) = true := by decide

/-- SRC2: reset. The launch of the default parameters is the reset state, and the program is fetched from the reset vector. -/
theorem test_reset :
    launch LaunchParams.default = .ok State.reset ∧ State.reset.cycles = 8 ∧ State.reset.p = 0x20 ∧
    okAnd (launch { LaunchParams.default with prg := [(0x3FFC, 0x34), (0x3FFD, 0x92)] }) (fun s => s.pc == 0x9234) = true ∧
    launch { LaunchParams.default with prgBanks := 0 } = .error (.refused .badLaunch) := by decide

/-- The host's calls between steps: presenting a frame clears its signal and nothing else; a reset call restarts the counters. -/
theorem test_host_calls :
    okAnd (hostCall .presentFrame (withPpu { Ppu.reset with frameComplete := true })) (fun s => s == withPpu Ppu.reset) = true ∧
    okAnd (hostCall .reset { start 0x8000 [] { a := 1 } with master := 9, clockCount := 4 })
      (fun s => s.a == 0 && s.master == 0 && s.clockCount == 4 && s.resets == 2 && s.cycles == 8) = true := by decide

/-- The placing of an instruction: the next step runs it, in RAM and in PRG, with its bits above `nbits` zero. -/
theorem test_with_fetch_word :
    nextAnd (step (State.reset.withFetchWord 16 0x7FA9)) (fun s => s.a == 0x7F && s.opcode == 0xA9 && s.cycles == 1) = true ∧
    nextAnd (step ((start 0x9000 [] {}).withFetchWord 8 0x4C)) (fun s => s.pc == 0x0000 && s.opcode == 0x4C && s.cycles == 2) = true ∧
    nextAnd (step ({ start 0x2000 [] {} with master := 7, irqEvents := [6] }.withFetchWord 8 0xE8)) (fun s => s.x == 1 && s.pc == 0x0001) = true := by
  decide

/-! ### For each statement with hypotheses, a state and operands that meet them -/

/-- ADC #5 to 3 is due. -/
def adcDue : State := start 0x8000 [0x69, 0x05] { a := 3, ram := [(0x10, 0x44), (0x11, 0x02)] }

/-- A CNROM cartridge with bank 3 of four selected. -/
def cnromThree : Cart := { cnromFour with mapper := .cnrom 3 }

/-- A cartridge of NROM, and one of CNROM with its last bank selected, are in range; one bank further is not. -/
theorem test_in_range : adcDue.cart.inRange ∧ cnromThree.inRange ∧ ¬ { cnromThree with chrBanks := 3 }.inRange :=
  ⟨⟨by decide, trivial⟩, ⟨by decide, show (3 : Nat) < 4 by decide⟩, fun h => absurd h.2 (show ¬ (3 : Nat) < 3 by decide)⟩

theorem test_meets_DecodeEncodeRoundTrip : (Instr.undef 0x02).wf = true ∧ (Instr.lda (.abx 0xFFFF)).wf = true ∧
    decode (encode (.lda (.abx 0xFFFF)) ++ [0xEA]) = .ok (.lda (.abx 0xFFFF), [0xEA]) := by decide

theorem test_meets_FetchMovesPcPastInstruction : adcDue.cart.inRange ∧
    okAnd (fetchInstr adcDue) (fun r => r.1 == .adc (.imm 5) && r.2.pc == 0x8002) = true := ⟨test_in_range.1, by decide⟩

/-- No call is due in `adcDue`; in a state with I set and a call due, the call leaves the state as it is. -/
theorem test_meets_IrqCalled : IrqCalled adcDue adcDue ∧ IrqCalled { adcDue with p := 0x24, irqEvents := [0] } { adcDue with p := 0x24, irqEvents := [0] } :=
  ⟨⟨fun h => absurd h (by decide), fun _ => rfl⟩, ⟨fun _ => by decide, fun h => absurd h (by decide)⟩⟩

/-- A call that is taken: the entry, and a step that begins with it. -/
theorem test_irq_call_before_step : okAnd (cpuIrq { adcDue with irqEvents := [0] }) (fun t => t.pc == 0x8100 && t.cycles == 7) = true ∧
    nextAnd (step { adcDue with irqEvents := [0] }) (fun t => t.pc == 0x8100 && t.cycles == 6 && t.a == 3 && t.ram.read 0x1FB == 0x20) = true := by
  decide

theorem test_meets_StepRunsDecodedInstruction : IrqCalled adcDue adcDue ∧ okAnd (ppuClock adcDue.cart adcDue.ppu) (fun _ => true) = true ∧
    adcDue.master % 3 = 0 ∧ adcDue.dma.active = false ∧ adcDue.cycles = 0 ∧ decode [0x69, 0x05] = .ok (.adc (.imm 5), []) ∧
    peek adcDue 0x8000 = some 0x69 ∧ peek adcDue 0x8001 = some 0x05 := ⟨test_meets_IrqCalled.1, by decide⟩

/-- An instruction fetched from a port: PPUDATA gives its buffer, 0xC9, and the operand comes from PPUCTRL, 0x00; `v` has moved on. -/
def portFetch : State := { start 0x2007 [] { a := 3 } with ppu := { Ppu.reset with v := 0x2000, dataBuffer := 0xC9 } }

theorem test_meets_StepRunsDecodedInstruction_port : IrqCalled portFetch portFetch ∧ portFetch.cycles = 0 ∧ portFetch.dma.active = false ∧
    decode [0xC9, 0x00] = .ok (.cmp (.imm 0x00), []) ∧
    okAnd (ppuClock portFetch.cart portFetch.ppu) (fun q => okAnd (busRead 0x2007 (portFetch.setPpu q))
      (fun r => r.1 == 0xC9 && okAnd (busRead 0x2008 r.2) (fun r => r.1 == 0x00))) = true ∧
    nextAnd (step portFetch) (fun t => t.pc == 0x2009 && t.opcode == 0xC9 && t.ppu.v == 0x2001 && t.p == 0x21) = true :=
  ⟨⟨fun h => absurd h (by decide), fun _ => rfl⟩, by decide⟩

/-- The same for BRK, whose padding byte is a PPU port and is not read. -/
theorem test_meets_StepRunsDecodedInstruction_brk : decode [0x00, 0x99] = .ok (.brk, []) ∧
    peek (start 0x1FFF [] {}) 0x1FFF = some 0x00 ∧ peek (start 0x1FFF [] {}) 0x2000 = none ∧
    nextAnd (step (start 0x1FFF [] {})) (fun s => s.pc == 0x8100 && s.ppu.w == false && s.ram == [(0x1FB, 0x30), (0x1FC, 0x01), (0x1FD, 0x20)]) =
      true := by decide

theorem test_meets_InstructionTimeAndCountdown : 8 ≤ State.reset.cycles ∧
    okAnd (runTimes cpuClock 8 State.reset) (fun s => s.cycles == 0 && s.clockCount == 8 && s.pc == State.reset.pc) = true ∧
    nextAnd (exec (.lda (.abx 0x02FF)) { adcDue with x := 1 }) (fun t => t.cycles == 5) = true ∧
    nextAnd (exec (.beq 0x80) { adcDue with p := 0x22 }) (fun t => t.cycles == 4) = true := by decide

theorem test_meets_LoadResults : adcDue.cart.inRange ∧ cnromThree.inRange ∧
    okAnd (readOperand (srcOperand (.zp0 0x10)) adcDue) (fun r => r.1 == 0x44) = true := ⟨test_in_range.1, test_in_range.2.1, by decide⟩

theorem test_meets_StoreResults : 1 ≤ adcDue.cart.prgBanks ∧ nextAnd (exec (.sta (.abs 0x2003)) adcDue) (fun t => t.ppu.oamAddr == 3) = true := by
  decide

theorem test_meets_AdcResult : adcDue.cart.inRange ∧ nextAnd (exec (.adc (.imm 5)) adcDue) (fun t => t.a == 8) = true :=
  ⟨test_in_range.1, by decide⟩

theorem test_meets_SbcResult : adcDue.cart.inRange ∧ nextAnd (exec (.sbc (.imm 5)) adcDue) (fun t => t.a == 0xFD) = true :=
  ⟨test_in_range.1, by decide⟩

/-- Overflow and no overflow, for each of the two instructions. -/
theorem test_meets_OverflowIsSigned : okAnd (readOperand (srcOperand (.imm 0x7F)) adcDue) (fun r => r.1 == 0x7F) = true ∧
    nextAnd (exec (.adc (.imm 0x7F)) adcDue) (fun t => t.flag .V && t.a == 0x82) = true ∧
    nextAnd (exec (.adc (.imm 0x7C)) adcDue) (fun t => !t.flag .V && t.a == 0x7F) = true ∧
    nextAnd (exec (.sbc (.imm 0x82)) adcDue) (fun t => t.flag .V && t.a == 0x80) = true ∧
    nextAnd (exec (.sbc (.imm 0x83)) adcDue) (fun t => !t.flag .V && t.a == 0x7F) = true := by decide

theorem test_meets_LogicResults : adcDue.cart.inRange ∧ nextAnd (exec (.eor (.zp0 0x10)) adcDue) (fun t => t.a == 0x47) = true :=
  ⟨test_in_range.1, by decide⟩

theorem test_meets_TestAndCompareResults : adcDue.cart.inRange ∧ nextAnd (exec (.bit (.zp0 0x10)) adcDue) (fun t => t.p == 0x62) = true :=
  ⟨test_in_range.1, by decide⟩

theorem test_meets_MemoryIncDecResults : adcDue.cart.inRange ∧
    nextAnd (exec (.inc (.zp0 0x10)) adcDue) (fun t => t.ram.read 0x10 == 0x45) = true := ⟨test_in_range.1, by decide⟩

theorem test_meets_ShiftResults : Instr.ror ∈ [Instr.asl, Instr.lsr, Instr.rol, Instr.ror] ∧ adcDue.cart.inRange ∧
    nextAnd (exec (.ror (.mem (.zp0 0x10))) { adcDue with p := 0x21 }) (fun t => t.ram.read 0x10 == 0xA2) = true :=
  ⟨by simp, test_in_range.1, by decide⟩

theorem test_meets_JumpResults : adcDue.cart.inRange ∧ nextAnd (exec (.jmp (.ind 0x00FF)) adcDue) (fun t => t.pc == 0x0000) = true ∧
    nextAnd (exec (.jmp (.ind 0x0010)) adcDue) (fun t => t.pc == 0x0244) = true := ⟨test_in_range.1, by decide, by decide⟩

/-- Each flag instruction and each branch is in the list of its statement. -/
theorem test_meets_BranchResults : (Instr.bvs 0x80, Flag.V, true) ∈ [(Instr.bcc 0x80, Flag.C, false), (Instr.bcs 0x80, Flag.C, true),
    (Instr.beq 0x80, Flag.Z, true), (Instr.bmi 0x80, Flag.N, true), (Instr.bne 0x80, Flag.Z, false), (Instr.bpl 0x80, Flag.N, false),
    (Instr.bvc 0x80, Flag.V, false), (Instr.bvs 0x80, Flag.V, true)] ∧
    nextAnd (exec (.bvs 0x80) { adcDue with p := 0x60 }) (fun t => t.pc == 0x7F80) = true := by decide

theorem test_meets_FlagInstructionResults : (Instr.sei, Flag.I, true) ∈ [(Instr.clc, Flag.C, false), (Instr.cld, Flag.D, false),
    (Instr.cli, Flag.I, false), (Instr.clv, Flag.V, false), (Instr.sec, Flag.C, true), (Instr.sed, Flag.D, true), (Instr.sei, Flag.I, true)] ∧
    nextAnd (exec .sei adcDue) (fun t => t.p == 0x24) = true := by decide

/-- The first and the last entry of the table; a run that sets counts 1 and 8. -/
theorem test_meets_UndefinedOpcodeResults : (2, [0x02, 0x0B, 0x12, 0x1A, 0x22, 0x2B, 0x32, 0x3A, 0x42, 0x4B, 0x52, 0x5A, 0x62, 0x6B, 0x72, 0x7A,
      0x80, 0x82, 0x89, 0x8B, 0x92, 0xAB, 0xB2, 0xC2, 0xCB, 0xD2, 0xDA, 0xE2, 0xEB, 0xF2, 0xFA]) ∈ undefTable ∧
    adcDue.params.undefCycles = [] ∧ adcDue.undefCycles 0x02 = 2 ∧ adcDue.undefCycles 0xF3 = 8 ∧
    ({ adcDue with params := { undefCycles := [(0x02, 0), (0xF3, 7)], dmaReadOdd := true } } : State).undefCycles 0x02 = 1 ∧
    ({ adcDue with params := { undefCycles := [(0x02, 7)], dmaReadOdd := true } } : State).undefCycles 0x02 = 8 := by decide

theorem test_meets_BrkAndRtiResults : 1 ≤ adcDue.cart.prgBanks ∧ nextAnd (exec .brk adcDue) (fun t => t.pc == 0x8100) = true := by decide

theorem test_meets_InterruptEntries : 1 ≤ adcDue.cart.prgBanks ∧ adcDue.flag .I = false ∧ ({ adcDue with p := 0x24 } : State).flag .I = true ∧
    okAnd (cpuNmi { adcDue with p := 0x24 }) (fun t => t.pc == 0x8200 && t.ram.read 0x1FB == 0x24) = true := by decide

/-- Each of the three entries. -/
theorem test_meets_ReturnsUndoEntries : 1 ≤ adcDue.cart.prgBanks ∧ nextAnd (exec .brk adcDue) (fun _ => true) = true ∧
    (okAnd (cpuIrq adcDue) (fun _ => true) = true ∧ adcDue.flag .I = false) ∧ okAnd (cpuNmi adcDue) (fun _ => true) = true := by decide

theorem test_meets_RegisterAndFlagFrame : nextAnd (exec (.adc (.imm 5)) adcDue) (fun t => t.x == adcDue.x) = true ∧
    Reg.X ∉ destRegs (.adc (.imm 5)) ∧ Flag.I ∉ destFlags (.adc (.imm 5)) ∧ writesPc (.adc (.imm 5)) = false := by decide

/-- A store to RAM at the last byte of page 2, and the two bytes beside it; then a store to a port. -/
theorem test_meets_MemoryFrame : storedTo (.sta (.aby 0x02F0)) { adcDue with y := 0x0F } = [0x02FF] ∧
    locate adcDue.cart 0x02FE ≠ locate adcDue.cart 0x02FF ∧ locate adcDue.cart 0x0300 ≠ locate adcDue.cart 0x02FF ∧
    locate adcDue.cart 0x0AFF = locate adcDue.cart 0x02FF ∧ locate adcDue.cart 0x02FF ≠ .port .data ∧
    nextAnd (exec (.sta (.aby 0x02F0)) { adcDue with y := 0x0F })
      (fun t => peek t 0x0AFF == some 3 && peek t 0x02FE == some 0 && peek t 0x0300 == some 0) = true ∧
    locate adcDue.cart 0x3FFF = .port .data := by decide

/-- An instruction that reads a port, one that writes a controller, one that starts a transfer, and one that does none of these. -/
theorem test_meets_DeviceFrame : readFrom (.lda (.abs 0x2007)) adcDue = [0x2007] ∧ storedTo (.sta (.abs 0x4016)) adcDue = [0x4016] ∧
    nextAnd (exec (.lda (.abs 0x2007)) adcDue) (fun t => t.ppu.v == 1 && t.padSr0 == adcDue.padSr0 && t.dma == adcDue.dma) = true ∧
    nextAnd (exec (.sta (.abs 0x4014)) adcDue) (fun t => t.dma.active && t.dma.page == 3 && t.ppu == adcDue.ppu) = true ∧
    nextAnd (exec (.lda (.zp0 0x10)) adcDue) (fun t => t.ppu == adcDue.ppu && t.cart == adcDue.cart) = true := by decide

theorem test_meets_EffectiveAddresses : okAnd (effectiveAddr (.izy 0x10) { adcDue with y := 0xBC }) (fun r => r.1 == 0x0300 && r.2.1) = true ∧
    okAnd (effectiveAddr (.izy 0x10) { adcDue with y := 0xBB }) (fun r => r.1 == 0x02FF && !r.2.1) = true := by decide

theorem test_meets_OperandFetch : adcDue.cart.inRange ∧ okAnd (busRead (addrOf (.zp0 0x10) adcDue).1 adcDue) (fun r => r.1 == 0x44) = true :=
  ⟨test_in_range.1, by decide⟩

/-- The first and last address of each region, with a byte to tell them apart. -/
theorem test_meets_BusReadsByRegion :
    [(0x0010, 0x44), (0x1811, 0x02), (0x1FFF, 0x00), (0x2000, 0x00), (0x3FFF, 0x00), (0x4000, 0x00), (0x4014, 0x00), (0x4015, 0x00),
      (0x4018, 0x00), (0x7FFF, 0x00), (0x8000, 0x69), (0xC001, 0x05), (0xFFFF, 0x81)].all
        (fun e => okAnd (busRead e.1 adcDue) (fun r => r.1 == e.2)) = true ∧
    okAnd (busRead 0x4016 { adcDue with padSr0 := 0x80 }) (fun r => r.1 == 0x01 && r.2.padSr0 == 0) = true ∧
    okAnd (busRead 0x4017 { adcDue with padSr1 := 0x40 }) (fun r => r.1 == 0x00 && r.2.padSr1 == 0x80) = true ∧
    ports[0x3FFF % 8]? = some .data ∧ 1 ≤ adcDue.cart.prgBanks := by decide

theorem test_meets_BusWritesByRegion :
    okAnd (busWrite 0x1FFF 0x5A adcDue) (fun t => t.ram.read 0x7FF == 0x5A) = true ∧
    okAnd (busWrite 0x3FFB 0x5A adcDue) (fun t => t.ppu.oamAddr == 0x5A) = true ∧ ports[0x3FFB % 8]? = some .oamAddr ∧
    okAnd (busWrite 0x4014 0x5A adcDue) (fun t => t.dma.page == 0x5A && t.dma.align) = true ∧
    busWrite 0x4016 0x5A adcDue = .ok { adcDue with padSr0 := Config.pad 0 1 0 } ∧
    busWrite 0x4017 0x5A adcDue = .ok { adcDue with padSr1 := Config.pad 1 1 0 } ∧
    okAnd (busWrite 0x4015 0x5A adcDue) (fun t => t == adcDue) = true ∧ okAnd (busWrite 0x7FFF 0x5A adcDue) (fun t => t == adcDue) = true ∧
    adcDue.cart.mapper = .nrom ∧ okAnd (busWrite 0x8000 0x5A adcDue) (fun t => t.cart.prg.read 0 == 0x5A) = true ∧
    okAnd (busWrite 0xFFFF 0xFE (adcDue.setCart cnromThree)) (fun t => t.cart == { cnromThree with mapper := .cnrom 2 }) = true :=
  ⟨by decide, by decide, by decide, by decide, rfl, rfl, by decide⟩

/-- Whether an outcome is the stop of R116. -/
def stops (o : Host.Outcome State Fault Refusal) : Bool :=
  match o with
  | .fault .cartOffsetOutOfRange => true
  | _ => false

/-- The read that stops the machine, and the same read with one more bank. -/
theorem test_meets_CartridgeStopIsExactly :
    busRead 0x2007 (adcDue.setCart { cnromThree with chrBanks := 3 }) = .error (.fault .cartOffsetOutOfRange) ∧
    locate cnromThree 0x2007 = .port .data ∧ 1 ≤ cnromThree.prgBanks ∧
    okAnd (busRead 0x2007 (adcDue.setCart cnromThree)) (fun _ => true) = true ∧
    stops (exec (.lda (.abs 0x2007)) (adcDue.setCart { cnromThree with chrBanks := 3 })) = true ∧
    stops (exec (.jmp (.ind 0x2006)) (adcDue.setCart { cnromThree with chrBanks := 3 })) = true := by decide

theorem test_meets_PortReads : okAnd (ppuRead cnromThree { Ppu.reset with v := 0x7F00 } (BitVec.ofNat 16 (0x7F00 % 16384))) (fun _ => true) = true ∧
    okAnd (ppuPortRead cnromThree .data { Ppu.reset with v := 0x7F00, pal := [(0, 0x12)] }) (fun r => r.1 == 0x12 && r.2.v == 0x7F01) = true := by
  decide

theorem test_meets_PortWrites : okAnd (ppuPortWrite cnromThree .scroll { Ppu.reset with w := true } 0xFF) (fun r => r.2.t == 0x73E0) = true ∧
    okAnd (ppuPortWrite cnromThree .addr { Ppu.reset with t := 0x7FFF } 0xFF) (fun r => r.2.t == 0x3FFF && r.2.w) = true ∧
    okAnd (ppuWrite cnromThree Ppu.reset (BitVec.ofNat 16 (0x3FFF % 16384)) 0x11) (fun _ => true) = true := by decide

/-- Two addresses of one nametable byte, two of one palette byte, and the first and last that are not pattern addresses. -/
theorem test_meets_VideoMemoryReadsBack : videoCell .horizontal 0x2000 = videoCell .horizontal 0x2400 ∧
    videoCell .vertical 0x2000 ≠ videoCell .vertical 0x2400 ∧ videoCell .vertical 0x3F10 = videoCell .vertical 0x3F00 ∧
    videoCell .vertical 0x3F11 ≠ videoCell .vertical 0x3F01 ∧ videoCell .vertical 0x3EFF = videoCell .vertical 0x26FF ∧
    videoCell .vertical 0x3FFF = (2, 0x1F) := by decide

theorem test_meets_PatternMemory : adcDue.cart.inRange ∧ cnromThree.inRange ∧ adcDue.cart.mapper = .nrom ∧ cnromThree.mapper = .cnrom 3 ∧
    okAnd (ppuWrite cnromThree Ppu.reset 0x1FFF 0x11) (fun r => r.2.pt1 == [(0x0FFF, 0x11)]) = true ∧
    okAnd (ppuWrite cnromThree Ppu.reset 0x0FFF 0x11) (fun r => r.2.pt0 == [(0x0FFF, 0x11)]) = true :=
  ⟨test_in_range.1, test_in_range.2.1, by decide⟩

/-- Ten reads of a controller register after a latch of a known value stand for the host's snapshot. -/
theorem test_meets_ControllerShiftsOutSnapshot : okAnd (readMany 0x4016 10 { adcDue with padSr0 := 0xA1 })
    (fun r => r.1 == [0x01, 0x00, 0x01, 0x00, 0x00, 0x00, 0x00, 0x01, 0x00, 0x00]) = true ∧ (0x4016 : Word) = (if (0 : Fin 2) = 0 then 0x4016 else 0x4017) := by
  decide

/-- The last cycle of a line, of the last line, and the skip. -/
theorem test_meets_PpuCountersAdvance :
    okAnd (ppuClock cnromThree { Ppu.reset with scanline := -1, cycle := 340 }) (fun q => q.scanline == 0 && q.cycle == 0 && !q.oddFrame) = true ∧
    okAnd (ppuClock cnromThree { Ppu.reset with scanline := 260, cycle := 340, oddFrame := true }) (fun q => q.scanline == -1 && !q.oddFrame) = true ∧
    okAnd (ppuClock cnromThree { Ppu.reset with scanline := 260, cycle := 339 }) (fun q => q.scanline == 260 && q.cycle == 340) = true ∧
    okAnd (ppuClock cnromThree { Ppu.reset with mask := 0x10, oddFrame := true }) (fun q => q.cycle == 2) = true := by decide

theorem test_meets_FramePeriod : cnromThree.inRange ∧ (Ppu.reset.mask.getLsbD 3 || Ppu.reset.mask.getLsbD 4) = false ∧
    -1 ≤ Ppu.reset.scanline ∧ Ppu.reset.scanline ≤ 260 ∧ Ppu.reset.cycle ≤ 340 ∧
    okAnd (ppuCycles cnromThree 2 { Ppu.reset with scanline := 260, cycle := 339 }) (fun q => beam q == 0 && q.oddFrame) = true :=
  ⟨test_in_range.2.1, by decide⟩

theorem test_meets_RenderingFrame : okAnd (ppuClock cnromThree { Ppu.reset with cycle := 256, v := 0x1234 }) (fun q => q.v == 0x1234) = true ∧
    okAnd (ppuClock cnromThree { Ppu.reset with scanline := 241, cycle := 1, ctrl := 0x80 }) (fun q => q.nmiReq) = true := by decide

/-- A slot whose pixel is opaque in its left column. -/
def opaqueSlot : SpriteSlot := { y := 0, id := 0, attr := 0, x := 0, patLo := 0x80, patHi := 0 }

/-- Each change: vertical blank on and off, the hit on and off, the overflow on and off. -/
theorem test_meets_StatusFlagLifetimes :
    okAnd (ppuClock cnromThree { Ppu.reset with scanline := 241, cycle := 1 }) (fun q => q.status == 0x80) = true ∧
    okAnd (ppuClock cnromThree { Ppu.reset with scanline := -1, cycle := 1, status := 0xE0 }) (fun q => q.status == 0x00) = true ∧
    okAnd (ppuClock cnromThree { Ppu.reset with
        scanline := 240, cycle := 258, mask := 0x18, bgPatLo := 0x8000, sprCount := 1
        spr := [opaqueSlot], spr0Possible := true })
      (fun q => q.status == 0x00) = true ∧
    okAnd (ppuClock cnromThree { Ppu.reset with
        scanline := 240, cycle := 257, mask := 0x18, bgPatLo := 0x8000, sprCount := 1
        spr := [opaqueSlot], spr0Possible := true })
      (fun q => q.status.getLsbD 6 && q.spr0Rendering) = true ∧
    okAnd (ppuClock cnromThree { Ppu.reset with scanline := 7, cycle := 257 }) (fun q => q.status.getLsbD 5) = true ∧
    okAnd (ppuClock cnromThree { Ppu.reset with scanline := 200, cycle := 257, status := 0x20 }) (fun q => !q.status.getLsbD 5) = true := by decide

/-- `v` at the last coarse x of a row, rendering on: the increment of cycle 248, none at 249, both increments at 256. -/
theorem test_v_moves_in_rendering :
    okAnd (ppuClock cnromThree { Ppu.reset with mask := 0x08, v := 0x001F, cycle := 248 }) (fun q => q.v == 0x0400) = true ∧
    okAnd (ppuClock cnromThree { Ppu.reset with mask := 0x08, v := 0x001F, cycle := 249 }) (fun q => q.v == 0x001F) = true ∧
    okAnd (ppuClock cnromThree { Ppu.reset with mask := 0x08, v := 0x001F, cycle := 256 }) (fun q => q.v == 0x1400) = true := by decide

/-- A PPU at a visible cycle with background rendering on, a lit tile byte in CHR and another in the attribute table. -/
def tilePpu (cycle : Nat) : Ppu :=
  { Ppu.reset with
    scanline := 5, cycle := cycle, mask := 0x08, ctrl := 0x10, v := 0x7042, ntId := 0x12, ntAttr := 2, ntLsb := 0xA5
    bgPatLo := 0x8180, bgAttHi := 0x4000, nt0 := [(0x042, 0x77), (0x3C0, 0xE4)], nt1 := [] }

/-- CHR with the two planes of row 7 of tile 0x12 in the second pattern table. -/
def tileCart : Cart := { cnromThree with mapper := .nrom, chr := [(0x1127, 0x3C), (0x112F, 0xC3)] }

/-- Each phase of the tile window (a load and a nametable fetch at the last cycle, 257 and 337 of a phase 0), the fetch at 338, and a
cycle outside. -/
theorem test_meets_BackgroundPipeline :
    okAnd (ppuClock tileCart (tilePpu 9)) (fun q => q.bgPatLo == 0x03A5 && q.bgAttLo == 0x0000 && q.bgAttHi == 0x80FF && q.ntId == 0x77) = true ∧
    okAnd (ppuClock tileCart (tilePpu 11)) (fun q => q.bgPatLo == 0x0300 && q.ntAttr == 3 && q.ntId == 0x12) = true ∧
    okAnd (ppuClock tileCart (tilePpu 13)) (fun q => q.ntLsb == 0x3C && q.ntMsb == 0) = true ∧
    okAnd (ppuClock tileCart (tilePpu 15)) (fun q => q.ntMsb == 0xC3 && q.ntLsb == 0xA5) = true ∧
    okAnd (ppuClock tileCart (tilePpu 257)) (fun q => q.ntId == 0x77 && q.bgPatLo == 0x03A5) = true ∧
    okAnd (ppuClock tileCart (tilePpu 340)) (fun q => q.ntId == 0x77 && q.bgPatLo == 0x8180) = true ∧
    okAnd (ppuClock tileCart (tilePpu 320)) (fun q => q.ntId == 0x12 && q.bgPatLo == 0x8180) = true ∧
    okAnd (ppuClock tileCart { tilePpu 9 with scanline := 240 }) (fun q => q.ntId == 0x12 && q.bgPatLo == 0x8180) = true := by decide

/-- Two slots, of which the first `n` are selected: the first with a counter of 2, the second at 0. -/
def slotPpu (n : Fin 9) (scanline : Int) (cycle : Nat) : Ppu :=
  { Ppu.reset with
    scanline := scanline, cycle := cycle, mask := 0x10, sprCount := n
    spr := [{ slotOf 0x12 0 with y := 3, x := 2, patLo := 0x81, patHi := 0x40 }, { slotOf 0x12 0x40 with y := 3, x := 0, patLo := 0x81, patHi := 0x40 }] }

/-- The clear, an evaluation, a fetch, a fall of a counter and a shift, a slot not selected, and a cycle outside. -/
theorem test_meets_SpritePipeline :
    okAnd (ppuClock tileCart (slotPpu 2 (-1) 1)) (fun q => q.sprCount == 0 && (q.spr.map (fun s => (s.x, s.patLo, s.patHi))) == [(2, 0, 0), (0, 0, 0)]) =
      true ∧
    okAnd (ppuClock tileCart (slotPpu 2 5 257)) (fun q => q.spr.length == 8 && q.sprCount == (spriteEvaluate (slotPpu 2 5 257)).sprCount) = true ∧
    okAnd (ppuClock { tileCart with chr := [(0x0122, 0x01), (0x012A, 0x02)] } (slotPpu 2 5 340))
      (fun q => (q.spr.map (fun s => (s.patLo, s.patHi))) == [(0x01, 0x02), (0x80, 0x40)]) = true ∧
    okAnd (ppuClock tileCart (slotPpu 2 5 2)) (fun q => (q.spr.map (fun s => (s.x, s.patLo, s.patHi))) == [(1, 0x81, 0x40), (0, 0x02, 0x80)]) = true ∧
    okAnd (ppuClock tileCart (slotPpu 1 (-1) 257)) (fun q => (q.spr.map (fun s => (s.x, s.patLo, s.patHi))) == [(1, 0x81, 0x40), (0, 0x81, 0x40)]) =
      true ∧
    okAnd (ppuClock tileCart (slotPpu 2 5 258)) (fun q => q.spr == (slotPpu 2 5 258).spr) = true := by decide

theorem test_meets_ScrollUpdates : (Ppu.reset.mask.getLsbD 3 || Ppu.reset.mask.getLsbD 4) = false ∧
    ((0x10 : Byte).getLsbD 3 || (0x10 : Byte).getLsbD 4) = true := by decide

set_option maxRecDepth 20000 in
/-- Ten sprites in range: numbers 0 to 9. -/
theorem test_meets_SpriteEvaluation : [0, 1, 2, 3, 4, 5, 6, 7, 8, 9] = (List.range 64).filter (fun n =>
    decide ((0 : Int) ≤ 10 - ((oamOf (List.replicate 10 3)).read (4 * n)).toNat) &&
      decide ((10 : Int) - ((oamOf (List.replicate 10 3)).read (4 * n)).toNat < 8)) := by decide

theorem test_meets_SpriteFetch : adcDue.cart.inRange ∧ ((31 : Int) - (slotOf 0x43 0x80).y.toNat = (11 : Nat)) ∧
    (0x43 % 2 * 4096 + (0x43 / 2 * 2 + (if (decide (8 ≤ 11) ^^ true) then 1 else 0)) * 16 + (7 - 11 % 8)) = 0x1424 :=
  ⟨test_in_range.1, by decide, by decide⟩

theorem test_meets_PixelPriority : (priority (1, 0) ⟨2, 4, true, true⟩ (hitPpu 0x18 9)).2.status = 0x40 ∧
    (priority (1, 0) ⟨2, 4, true, true⟩ (hitPpu 0x18 8)).2.status = 0x00 ∧ (priority (1, 0) ⟨2, 4, true, true⟩ (hitPpu 0x1E 1)).2.status = 0x40 := by
  decide

/-- The background in and out of its left columns; a foreground of no slot, and of the second when the first is transparent. -/
theorem test_meets_PixelComposition :
    backgroundPixel { Ppu.reset with mask := 0x08, cycle := 8, bgPatLo := 0xFFFF } = (0, 0) ∧
    backgroundPixel { Ppu.reset with mask := 0x08, cycle := 9, fineX := 7, bgPatLo := 0x0100, bgAttHi := 0x0100 } = (1, 2) ∧
    backgroundPixel { Ppu.reset with mask := 0x0A, cycle := 0, bgPatHi := 0x8000, bgAttLo := 0x8000 } = (2, 1) ∧
    (foregroundPixel { slotPpu 2 5 8 with mask := 0x10, spr0Rendering := true }).2.spr0Rendering = true ∧
    (foregroundPixel { slotPpu 2 5 9 with spr0Rendering := true }).1 = ⟨1, 4, true, false⟩ ∧
    showsAt (slotPpu 2 5 9) 1 { slotOf 0x12 0x40 with y := 3, x := 0, patLo := 0x81, patHi := 0x40 } ∧
    (foregroundPixel { slotPpu 1 5 9 with spr0Rendering := true }) =
      (⟨0, 0, false, false⟩, { slotPpu 1 5 9 with spr0Rendering := false }) ∧
    okAnd (composePixel tileCart { slotPpu 2 5 9 with mask := 0xF1, pal := [(0x11, 0x7F)] })
      (fun q => q.pixel == some { x := 8, y := 5, colourIndex := 0x30, emphasis := 7 }) = true ∧
    okAnd (ppuClock tileCart { Ppu.reset with scanline := 250, cycle := 0 }) (fun q => (q.pixel.map (fun p => (p.x, p.y))) == some (-1, 250)) = true :=
  ⟨by decide, by decide, by decide, by decide, by decide, ⟨by decide, by decide, by decide, by decide⟩, by decide, by decide, by decide⟩

theorem test_meets_StepOutsideCpuSlot : adcDue.cart.inRange ∧ IrqCalled { adcDue with master := 1 } { adcDue with master := 1 } ∧ 1 % 3 ≠ 0 ∧ adcDue.ppu.nmiReq = false ∧
    ¬(adcDue.ppu.scanline = 241 ∧ adcDue.ppu.cycle = 1 ∧ adcDue.ppu.ctrl.getLsbD 7 = true) ∧
    nextAnd (step { adcDue with master := 1 }) (fun t => t.master == 2 && t.pc == 0x8000 && t.ppu.cycle == 1) = true :=
  ⟨test_in_range.1, ⟨fun h => absurd h (by decide), fun _ => rfl⟩, by decide⟩

/-- Vertical blank in a CPU slot and in another step, with NMI enabled and disabled. -/
theorem test_meets_NmiEntersInTheVblankStep : 1 ≤ adcDue.cart.prgBanks ∧
    nextAnd (step { adcDue with ppu := { Ppu.reset with scanline := 241, cycle := 1, ctrl := 0x80 } })
      (fun t => t.a == 8 && t.pc == 0x8200 && t.cycles == 8 && t.ram.read 0x1FC == 0x02) = true ∧
    nextAnd (step { adcDue with master := 1, ppu := { Ppu.reset with scanline := 241, cycle := 1, ctrl := 0x80 } })
      (fun t => t.a == 3 && t.pc == 0x8200 && t.cycles == 8 && t.ppu.status == 0x80) = true ∧
    nextAnd (step { adcDue with master := 1, ppu := { Ppu.reset with scanline := 241, cycle := 1 } })
      (fun t => t.pc == 0x8000 && t.ppu.status == 0x80) = true ∧
    nextAnd (step { adcDue with ppu := { Ppu.reset with scanline := 241, cycle := 1 } })
      (fun t => t.a == 8 && t.pc == 0x8002 && !t.ppu.nmiReq) = true := by decide

/-- The running slots of the engine in both parities, waiting and not; the last write. -/
theorem test_dma_slots :
    nextAnd (step { adcDue with dma := { page := 0, offset := 0, data := 0, align := true, active := true } }) (fun t => !t.dma.align) = true ∧
    nextAnd (step { adcDue with master := 3, dma := { page := 0, offset := 0, data := 0, align := true, active := true } }) (fun t => t.dma.align) = true ∧
    nextAnd (step { adcDue with master := 3, dma := { page := 0, offset := 0x10, data := 0, align := false, active := true } })
      (fun t => t.dma.data == 0x44 && t.dma.offset == 0x10) = true ∧
    nextAnd (step { adcDue with dma := { page := 0, offset := 0xFF, data := 9, align := false, active := true } })
      (fun t => !t.dma.active && t.dma.offset == 0 && t.ppu.oam == [(0xFF, 9)]) = true := by decide

theorem test_meets_CountersAndDmaFreeze : IrqCalled adcDue adcDue ∧
    nextAnd (step { adcDue with dma := { page := 0, offset := 0x10, data := 0, align := false, active := true } })
      (fun t => t.clockCount == 0 && t.pc == 0x8000 && t.ppu.oam == [] && t.dma.offset == 0x11) = true ∧
    nextAnd (step adcDue) (fun t => t.clockCount == 1 && t.master == 1) = true ∧ adcDue.ppu.nmiReq = false :=
  ⟨test_meets_IrqCalled.1, by decide⟩

/-- A transfer of page 0, with a byte of each address but those listed; started in a slot of either parity. -/
theorem test_meets_DmaTransfer :
    let s : State := { adcDue with dma := { page := 0, offset := 0, data := 0, align := true, active := true } }
    s.dma.active = true ∧ s.dma.align = true ∧ s.dma.offset = 0 ∧ (∀ k : Byte, peek s (s.dma.page ++ k) = some (s.ram.read k.toNat)) ∧
    decide (s.master % 2 = 1) ≠ s.params.dmaReadOdd ∧ decide ((s.master + 3) % 2 = 1) = s.params.dmaReadOdd := by
  intro s
  refine ⟨rfl, rfl, rfl, fun k => ?_, by decide, by decide⟩
  have h : ∀ k : Byte, locate adcDue.cart ((0 : Byte) ++ k) = .ram k.toNat := by decide
  show peek s ((0 : Byte) ++ k) = _
  unfold peek
  rw [show s.cart = adcDue.cart from rfl, h k]

theorem test_meets_CartridgeOverAStep : adcDue.cart.mapper = .nrom ∧ nextAnd (step adcDue) (fun t => t.cart == adcDue.cart) = true ∧
    nextAnd (step (start 0x0200 [] { a := 2, ram := [(0x200, 0x8D), (0x202, 0x80)] } |>.setCart cnromThree))
      (fun t => t.cart == { cnromThree with mapper := .cnrom 2 }) = true := by decide

theorem test_meets_BusReset : 1 ≤ cnromThree.prgBanks ∧
    okAnd (busReset ({ adcDue with clockCount := 5 }.setCart cnromThree)) (fun t => t.cart == cnromFour && t.clockCount == 5 && t.ram == adcDue.ram) = true := by
  decide

theorem test_meets_LaunchMeetsInvariant :
    okAnd (launch { LaunchParams.default with mapperId := 3, chrBanks := 1, prg := [(0x3FFF, 0x80)], ramInit := [(0x7FF, 0xFF)] })
      (fun s => s.pc == 0x0000 && s.cart.mapper == .cnrom 0 && s.ram.read 0x7FF == 0xFF) = true := by decide

/-- CHR bytes with no character bank declared describe no cartridge (R10, R16); a declared bank may hold them. -/
theorem test_launch_chr : (launch { LaunchParams.default with chr := [(0, 1)] } matches .error (.refused .badLaunch)) = true ∧
    okAnd (launch { LaunchParams.default with chr := [(0, 1)], chrBanks := 1 }) (fun s => s.cart.chr.read 0 == 1) = true ∧
    okAnd (launch LaunchParams.default) (fun s => s.cart.chrLen == 8192 && s.cart.chr == []) = true := by decide

/-- A state that meets the invariant while a transfer waits for its alignment, and takes a step. -/
def midTransfer : State := { adcDue with master := 3, cycles := 3, dma := { page := 2, offset := 0, data := 0, align := true, active := true } }

theorem test_meets_StepKeepsInvariant : midTransfer.Inv ∧ nextAnd (step midTransfer) (fun t => t.dma.align) = true :=
  ⟨⟨by decide, by decide, by decide, by decide, by decide, by decide, fun h => absurd h (by decide),
    ⟨by decide, by decide, by decide, by decide, by decide, by decide, by decide, by decide, by decide, by decide, by decide, by decide, by decide⟩⟩,
    by decide⟩

theorem test_meets_EveryInstructionCompletes : cnromThree.inRange ∧
    nextAnd (exec (.inc (.abs 0x8000)) (adcDue.setCart cnromThree)) (fun t => t.cart == { cnromThree with mapper := .cnrom 1 }) = true :=
  ⟨test_in_range.2.1, by decide⟩

theorem test_meets_MachineNeverStops : adcDue.cart.neverFaults ∧ cnromThree.neverFaults := ⟨⟨by decide, .inl rfl⟩, ⟨by decide, .inr (by decide)⟩⟩

end Sys2Proof.Tests
end

section
/-! Proofs, part 1: what keeps U at 1 and B at 0 in P, and the countdown in its bound (10_state.md R24, 40_dispatch.md R175). -/

namespace Sys2Proof.Machine

/-! ### The status byte -/

/-- U is 1 and B is 0 in a status byte (R24). -/
def StatusOk (p : Byte) : Prop := flagOf p .U = true ∧ flagOf p .B = false

theorem StatusOk.withFlag {p : Byte} (h : StatusOk p) {f : Flag} (b : Bool) (hU : f ≠ .U) (hB : f ≠ .B) :
    StatusOk (withFlag p f b) := by
  simpa [StatusOk, hU.symm, hB.symm] using h

theorem StatusOk.znByte {p : Byte} (h : StatusOk p) (v : Byte) : StatusOk (znByte p v) := by
  simpa [StatusOk, flagOf_znByte] using h

theorem StatusOk.adcFlags {p : Byte} (h : StatusOk p) (a m : Byte) (c : Bool) : StatusOk (adcFlags p a m c) := by
  simpa [StatusOk, flagOf_adcFlags] using h

theorem StatusOk.compareFlags {p : Byte} (h : StatusOk p) (r m : Byte) : StatusOk (compareFlags p r m) := by
  simpa [StatusOk, flagOf_compareFlags] using h

theorem StatusOk.bitFlags {p : Byte} (h : StatusOk p) (a m : Byte) : StatusOk (bitFlags p a m) := by
  simpa [StatusOk, flagOf_bitFlags] using h

theorem StatusOk.shiftFlags {p : Byte} (h : StatusOk p) (r : Byte) (c : Bool) : StatusOk (shiftFlags p r c) := by
  simpa [StatusOk, flagOf_shiftFlags] using h

/-- Whatever P is, an interrupt takes it to a byte with U as 1 and B as 0 (R312, R313). -/
theorem statusOk_interruptStatus (p : Byte) : StatusOk (interruptStatus p) := by
  simp [StatusOk, flagOf_interruptStatus]

/-- Whatever byte is pulled, P stores it with U as 1 and B as 0 (R224). -/
theorem statusOk_pulledStatus (v : Byte) : StatusOk (pulledStatus v) := by
  simp [StatusOk, flagOf_pulledStatus]

/-! ### P and the countdown through bus traffic -/

theorem ReadFrame.p {s t : State} (h : ReadFrame s t) : t.p = s.p := by
  obtain ⟨_, _, _, _, _, _, rfl, _⟩ := h
  rfl

theorem ReadFrame.cycles {s t : State} (h : ReadFrame s t) : t.cycles = s.cycles := by
  obtain ⟨_, _, _, _, _, _, rfl, _⟩ := h
  rfl

theorem ReadFrame.dma {s t : State} (h : ReadFrame s t) : t.dma = s.dma := by
  obtain ⟨_, _, _, _, _, _, rfl, _⟩ := h
  rfl

theorem WriteFrame.p {s t : State} (h : WriteFrame s t) : t.p = s.p := by rw [h.outside]

theorem WriteFrame.cycles {s t : State} (h : WriteFrame s t) : t.cycles = s.cycles := by rw [h.outside]

theorem readOperand_p {o : Operand} {s t : State} {b : Byte} {cross : Bool} (h : readOperand o s = .ok (b, cross, t)) :
    t.p = s.p := by
  obtain ⟨u, hu, ht⟩ := readOperand_effect h
  rw [ht]
  exact hu.p

theorem push_keeps {v : Byte} {s t : State} (h : push v s = .ok t) : t.p = s.p ∧ t.cycles = s.cycles := by
  rw [push_eq] at h
  cases h
  exact ⟨rfl, rfl⟩

theorem pushWord_keeps {w : Word} {s t : State} (h : pushWord w s = .ok t) : t.p = s.p ∧ t.cycles = s.cycles := by
  rw [pushWord_eq] at h
  cases h
  exact ⟨rfl, rfl⟩

/-- Every entry leaves P as the byte it was given, with I set, and the countdown and the DMA engine as they were. -/
theorem enterHandler_leaves {vec : Word} {pushed after : Byte} {s t : State} (h : enterHandler vec pushed after s = .ok t) :
    t.p = withFlag after .I true ∧ t.cycles = s.cycles ∧ t.dma = s.dma := by
  simp only [enterHandler, pushWord_eq, push_eq, Run.ok_bind] at h
  obtain ⟨⟨w, u⟩, hr, h⟩ := Run.bind_ok h
  cases h
  have hf := readPair_effect hr
  exact ⟨hf.p, hf.cycles, hf.dma⟩

theorem jumpTarget_keeps {m : JmpTarget} {s t : State} {w : Word} (h : jumpTarget m s = .ok (w, t)) :
    t.p = s.p ∧ t.cycles = s.cycles := by
  cases m with
  | abs w' => cases h; exact ⟨rfl, rfl⟩
  | ind w' => exact ⟨(readPair_effect h).p, (readPair_effect h).cycles⟩

/-! ### Instructions -/

theorem baseCycles_le (op : Byte) : baseCycles op ≤ 8 := by
  revert op; decide

theorem undefCycles_le (s : State) (op : Byte) : s.undefCycles op ≤ 8 := by
  unfold State.undefCycles
  split
  · rename_i n _
    exact n.isLt
  · exact baseCycles_le op

/-- P and the countdown after an instruction's meaning, before the CPU cycle counts itself: at most one more than R175's bound. -/
def CpuBounds (t : State) : Prop := StatusOk t.p ∧ t.cycles ≤ 9

/-- An operation on the registers leaves U, B and the countdown as they are. -/
def KeepsBounds (f : State → State) : Prop := ∀ u, StatusOk u.p → StatusOk (f u).p ∧ (f u).cycles = u.cycles

theorem readInstr_bounds {op : Byte} {o : Operand} {asks : Bool} {f : Byte → State → State} {s t : State}
    (h : readInstr op o asks f s = .ok t) (hs : StatusOk s.p) (hf : ∀ b, KeepsBounds (f b)) : CpuBounds t := by
  obtain ⟨b, cross, u, hr, rfl⟩ := readInstr_inv h
  obtain ⟨hp, hc⟩ := hf b (u.setCycles (baseCycles op)) (show StatusOk u.p by rw [readOperand_p hr]; exact hs)
  have hb := baseCycles_le op
  have hx := Bool.toNat_le (cross && asks)
  refine ⟨hp, ?_⟩
  show (f b (u.setCycles (baseCycles op))).cycles + (cross && asks).toNat ≤ 9
  rw [hc, State.setCycles_cycles]
  omega

theorem busWrite_bounds {a : Word} {v : Byte} {s t : State} (h : busWrite a v s = .ok t) (hs : CpuBounds s) : CpuBounds t := by
  have hw := busWrite_effect h
  unfold CpuBounds
  rw [hw.p, hw.cycles]
  exact hs

theorem baseCycles_le_nine (op : Byte) : baseCycles op ≤ 9 := Nat.le_succ_of_le (baseCycles_le op)

theorem storeInstr_bounds {op : Byte} {m : Addr} {r : State → Byte} {s t : State} (h : storeInstr op m r s = .ok t)
    (hs : StatusOk s.p) : CpuBounds t := by
  rw [storeInstr_eq] at h
  exact busWrite_bounds h ⟨hs, baseCycles_le_nine op⟩

theorem rmwInstr_bounds {op : Byte} {m : Addr} {f : Byte → Byte → Byte × Byte} {s t : State} (h : rmwInstr op m f s = .ok t)
    (hs : StatusOk s.p) (hf : ∀ b p, StatusOk p → StatusOk (f b p).2) : CpuBounds t := by
  obtain ⟨b, cross, u, _, hw⟩ := rmwInstr_inv h
  exact busWrite_bounds hw ⟨hf b s.p hs, baseCycles_le_nine op⟩

theorem shiftInstr_bounds {op : Byte} {d : ShiftDst} {f : ShiftFn} {s t : State} (h : shiftInstr op d f s = .ok t)
    (hs : StatusOk s.p) : CpuBounds t := by
  cases d with
  | acc => cases h; exact ⟨hs.shiftFlags _ _, baseCycles_le_nine op⟩
  | mem m =>
    simp only [shiftInstr] at h
    exact rmwInstr_bounds h hs (fun _ _ hp => hp.shiftFlags _ _)

theorem branchCycles_le (pc target : Word) (taken : Bool) : branchCycles pc target taken ≤ 2 := by
  unfold branchCycles
  repeat' split
  all_goals decide

theorem branchInstr_bounds {op d : Byte} {c : State → Bool} {s t : State} (h : branchInstr op d c s = .ok t)
    (hop : baseCycles op = 2) (hs : StatusOk s.p) : CpuBounds t := by
  have hb := branchCycles_le s.pc (branchTarget s.pc d) (c s)
  simp only [branchInstr, Except.ok.injEq] at h
  have hp : t.p = s.p := by subst h; cases c s <;> rfl
  have hc : t.cycles = baseCycles op + branchCycles s.pc (branchTarget s.pc d) (c s) := by subst h; cases c s <;> rfl
  exact ⟨hp ▸ hs, by omega⟩

/-- The meaning of an instruction keeps U and B, and sets a countdown of at most 9. -/
theorem exec_bounds {i : Instr} {s t : State} (h : exec i s = .next t) (hs : StatusOk s.p) : CpuBounds t := by
  cases i
  case lda m => exact readInstr_bounds (toOutcome_eq_next h) hs (fun _ _ hu => ⟨hu.znByte _, rfl⟩)
  case ldx m => exact readInstr_bounds (toOutcome_eq_next h) hs (fun _ _ hu => ⟨hu.znByte _, rfl⟩)
  case ldy m => exact readInstr_bounds (toOutcome_eq_next h) hs (fun _ _ hu => ⟨hu.znByte _, rfl⟩)
  case and m => exact readInstr_bounds (toOutcome_eq_next h) hs (fun _ _ hu => ⟨hu.znByte _, rfl⟩)
  case ora m => exact readInstr_bounds (toOutcome_eq_next h) hs (fun _ _ hu => ⟨hu.znByte _, rfl⟩)
  case eor m => exact readInstr_bounds (toOutcome_eq_next h) hs (fun _ _ hu => ⟨hu.znByte _, rfl⟩)
  case adc m => exact readInstr_bounds (toOutcome_eq_next h) hs (fun _ _ hu => ⟨hu.adcFlags _ _ _, rfl⟩)
  case sbc m => exact readInstr_bounds (toOutcome_eq_next h) hs (fun _ _ hu => ⟨hu.adcFlags _ _ _, rfl⟩)
  case bit m => exact readInstr_bounds (toOutcome_eq_next h) hs (fun _ _ hu => ⟨hu.bitFlags _ _, rfl⟩)
  case cmp m => exact readInstr_bounds (toOutcome_eq_next h) hs (fun _ _ hu => ⟨hu.compareFlags _ _, rfl⟩)
  case cpx m => exact readInstr_bounds (toOutcome_eq_next h) hs (fun _ _ hu => ⟨hu.compareFlags _ _, rfl⟩)
  case cpy m => exact readInstr_bounds (toOutcome_eq_next h) hs (fun _ _ hu => ⟨hu.compareFlags _ _, rfl⟩)
  case sta m => exact storeInstr_bounds (toOutcome_eq_next h) hs
  case stx m => exact storeInstr_bounds (toOutcome_eq_next h) hs
  case sty m => exact storeInstr_bounds (toOutcome_eq_next h) hs
  case inc m => exact rmwInstr_bounds (toOutcome_eq_next h) hs (fun _ _ hp => hp.znByte _)
  case dec m => exact rmwInstr_bounds (toOutcome_eq_next h) hs (fun _ _ hp => hp.znByte _)
  case asl m => exact shiftInstr_bounds (toOutcome_eq_next h) hs
  case lsr m => exact shiftInstr_bounds (toOutcome_eq_next h) hs
  case rol m => exact shiftInstr_bounds (toOutcome_eq_next h) hs
  case ror m => exact shiftInstr_bounds (toOutcome_eq_next h) hs
  case bcc d =>
    simp only [exec, execBcc] at h
    exact branchInstr_bounds (toOutcome_eq_next h) (show baseCycles 0x90 = 2 by decide) hs
  case bcs d =>
    simp only [exec, execBcs] at h
    exact branchInstr_bounds (toOutcome_eq_next h) (show baseCycles 0xB0 = 2 by decide) hs
  case beq d =>
    simp only [exec, execBeq] at h
    exact branchInstr_bounds (toOutcome_eq_next h) (show baseCycles 0xF0 = 2 by decide) hs
  case bmi d =>
    simp only [exec, execBmi] at h
    exact branchInstr_bounds (toOutcome_eq_next h) (show baseCycles 0x30 = 2 by decide) hs
  case bne d =>
    simp only [exec, execBne] at h
    exact branchInstr_bounds (toOutcome_eq_next h) (show baseCycles 0xD0 = 2 by decide) hs
  case bpl d =>
    simp only [exec, execBpl] at h
    exact branchInstr_bounds (toOutcome_eq_next h) (show baseCycles 0x10 = 2 by decide) hs
  case bvc d =>
    simp only [exec, execBvc] at h
    exact branchInstr_bounds (toOutcome_eq_next h) (show baseCycles 0x50 = 2 by decide) hs
  case bvs d =>
    simp only [exec, execBvs] at h
    exact branchInstr_bounds (toOutcome_eq_next h) (show baseCycles 0x70 = 2 by decide) hs
  case clc => cases h; exact ⟨hs.withFlag _ (by decide) (by decide), baseCycles_le_nine _⟩
  case cld => cases h; exact ⟨hs.withFlag _ (by decide) (by decide), baseCycles_le_nine _⟩
  case cli => cases h; exact ⟨hs.withFlag _ (by decide) (by decide), baseCycles_le_nine _⟩
  case clv => cases h; exact ⟨hs.withFlag _ (by decide) (by decide), baseCycles_le_nine _⟩
  case sec => cases h; exact ⟨hs.withFlag _ (by decide) (by decide), baseCycles_le_nine _⟩
  case sed => cases h; exact ⟨hs.withFlag _ (by decide) (by decide), baseCycles_le_nine _⟩
  case sei => cases h; exact ⟨hs.withFlag _ (by decide) (by decide), baseCycles_le_nine _⟩
  case txs => cases h; exact ⟨hs, baseCycles_le_nine _⟩
  case nop => cases h; exact ⟨hs, baseCycles_le_nine _⟩
  case undef op => cases h; exact ⟨hs, Nat.le_succ_of_le (undefCycles_le s op)⟩
  case pha =>
    obtain ⟨hp, hc⟩ := push_keeps (toOutcome_eq_next h)
    exact ⟨hp ▸ hs, hc ▸ baseCycles_le_nine _⟩
  case php =>
    obtain ⟨hp, hc⟩ := push_keeps (toOutcome_eq_next h)
    exact ⟨hp ▸ hs, hc ▸ baseCycles_le_nine _⟩
  case pla =>
    have h := toOutcome_eq_next h
    simp only [stackInstr, pull_eq, Run.ok_bind, Except.ok.injEq] at h
    subst h
    exact ⟨hs.znByte _, baseCycles_le_nine _⟩
  case plp =>
    have h := toOutcome_eq_next h
    simp only [stackInstr, pull_eq, Run.ok_bind, Except.ok.injEq] at h
    subst h
    exact ⟨statusOk_pulledStatus _, baseCycles_le_nine _⟩
  case jmp m =>
    obtain ⟨⟨w, u⟩, h1, h2⟩ := Run.bind_ok (toOutcome_eq_next h)
    cases h2
    obtain ⟨hp, hc⟩ := jumpTarget_keeps h1
    exact ⟨hp ▸ hs, hc ▸ baseCycles_le_nine _⟩
  case jsr w =>
    obtain ⟨u, h1, h2⟩ := Run.bind_ok (toOutcome_eq_next h)
    cases h2
    obtain ⟨hp, hc⟩ := pushWord_keeps h1
    exact ⟨hp ▸ hs, hc ▸ baseCycles_le_nine _⟩
  case rts =>
    have h := toOutcome_eq_next h
    simp only [stackInstr, pullWord_eq, Run.ok_bind, Except.ok.injEq] at h
    subst h
    exact ⟨hs, baseCycles_le_nine _⟩
  case brk =>
    obtain ⟨hp, hc, _⟩ := enterHandler_leaves (toOutcome_eq_next h)
    refine ⟨hp ▸ StatusOk.withFlag ?_ _ (by decide) (by decide), hc ▸ baseCycles_le_nine _⟩
    exact ⟨by simpa using hs.1, by simp⟩
  case rti =>
    have h := toOutcome_eq_next h
    simp only [stackInstr, returnFromHandler_eq, Except.ok.injEq] at h
    subst h
    exact ⟨statusOk_pulledStatus _, baseCycles_le_nine _⟩
  all_goals
    cases h
    exact ⟨hs.znByte _, baseCycles_le_nine _⟩

/-! ### The CPU cycle and the interrupts -/

theorem fetchByte_p {s t : State} {b : Byte} (h : fetchByte s = .ok (b, t)) : t.p = s.p := by
  obtain ⟨⟨b', u⟩, h1, h2⟩ := Run.bind_ok h
  cases h2
  exact (busRead_effect h1).p

theorem fetchForm_p {form : Form} {s t : State} {i : Instr} (h : fetchForm form s = .ok (i, t)) : t.p = s.p := by
  cases form with
  | implied i' => cases h; rfl
  | padded i' => cases h; rfl
  | byte f =>
    obtain ⟨⟨b, u⟩, h1, h2⟩ := Run.bind_ok h
    cases h2
    exact fetchByte_p h1
  | word f =>
    obtain ⟨⟨lo, u⟩, h1, h2⟩ := Run.bind_ok h
    obtain ⟨⟨hi, u'⟩, h3, h4⟩ := Run.bind_ok h2
    cases h4
    exact (fetchByte_p h3).trans (fetchByte_p h1)

/-- The fetch leaves P as it is. -/
theorem fetchInstr_p {s t : State} {i : Instr} (h : fetchInstr s = .ok (i, t)) : t.p = s.p := by
  obtain ⟨⟨op, u⟩, h1, h2⟩ := Run.bind_ok h
  exact (fetchForm_p h2).trans (show u.p = s.p from fetchByte_p h1)

theorem dispatch_bounds {s t : State} (h : dispatch s = .ok t) (hs : StatusOk s.p) : CpuBounds t := by
  obtain ⟨⟨i, u⟩, h1, h2⟩ := Run.bind_ok h
  exact exec_bounds (ofOutcome_eq_ok h2) (fetchInstr_p h1 ▸ hs)

/-- A CPU cycle keeps U, B and the bound of R175 on the countdown. -/
theorem cpuClock_bounds {s t : State} (h : cpuClock s = .ok t) (hs : StatusOk s.p) (hc : s.cycles ≤ 8) :
    StatusOk t.p ∧ t.cycles ≤ 8 := by
  obtain ⟨u, rfl, ⟨_, hd⟩ | ⟨_, rfl⟩⟩ := cpuClock_inv h
  · obtain ⟨hp, hu⟩ := dispatch_bounds hd hs
    exact ⟨hp, show u.cycles - 1 ≤ 8 by omega⟩
  · exact ⟨hs, show u.cycles - 1 ≤ 8 by omega⟩

theorem cpuIrq_bounds {s t : State} (h : cpuIrq s = .ok t) (hs : StatusOk s.p) (hc : s.cycles ≤ 8) :
    StatusOk t.p ∧ t.cycles ≤ 8 := by
  unfold cpuIrq at h
  split at h
  · cases h; exact ⟨hs, hc⟩
  · obtain ⟨u, h1, h2⟩ := Run.bind_ok h
    cases h2
    exact ⟨(enterHandler_leaves h1).1 ▸ (statusOk_interruptStatus _).withFlag _ (by decide) (by decide), show 7 ≤ 8 by decide⟩

theorem cpuNmi_bounds {s t : State} (h : cpuNmi s = .ok t) : StatusOk t.p ∧ t.cycles ≤ 8 := by
  obtain ⟨u, h1, h2⟩ := Run.bind_ok h
  cases h2
  exact ⟨(enterHandler_leaves h1).1 ▸ (statusOk_interruptStatus _).withFlag _ (by decide) (by decide), show 8 ≤ 8 by decide⟩

end Sys2Proof.Machine
end

section
/-! Proofs, part 2: the invariant of the state between master steps, through the four parts of a step (10_state.md R24, R32, R36 to R38). -/

namespace Sys2Proof.Machine

/-! ### The PPU -/

/-- The low five status bits are clear exactly when each of them is 0. -/
theorem statusLow_iff (v : Byte) : v &&& 0x1F = 0 ↔ ∀ i < 5, v.getLsbD i = false := by
  revert v; decide

/-- The PPU with its NMI request taken back, as delivery leaves it (R333). -/
def Ppu.nmiServed (q : Ppu) : Ppu := { q with nmiReq := false }

theorem oddFrameSkip_cycle_le {q : Ppu} (h : q.cycle ≤ 340) : (oddFrameSkip q).cycle ≤ 340 := by
  unfold oddFrameSkip
  split
  · exact show 1 ≤ 340 by decide
  · exact h

/-- A part of a PPU cycle that moves no counter keeps the PPU's invariant, an NMI request apart. -/
theorem RenderPart.inv {q q' : Ppu} (h : RenderPart q q') (hq : q.nmiServed.Inv) : q'.nmiServed.Inv where
  scanlineLow := h.scanline ▸ hq.scanlineLow
  scanlineHigh := h.scanline ▸ hq.scanlineHigh
  cycleHigh := h.cycle ▸ hq.cycleHigh
  slots := h.slots hq.slots
  attr := h.attr hq.attr
  statusLow := (statusLow_iff _).2 fun i hi => (h.low i hi).trans ((statusLow_iff _).1 hq.statusLow i hi)
  nmi := rfl
  nt0 := by rw [h.frame]; exact hq.nt0
  nt1 := by rw [h.frame]; exact hq.nt1
  pt0 := by rw [h.frame]; exact hq.pt0
  pt1 := by rw [h.frame]; exact hq.pt1
  pal := by rw [h.frame]; exact hq.pal
  oam := by rw [h.frame]; exact hq.oam

theorem oddFrameSkip_inv {q : Ppu} (hq : q.nmiServed.Inv) : (oddFrameSkip q).nmiServed.Inv := by
  rw [oddFrameSkip_part]
  exact { hq with cycleHigh := oddFrameSkip_cycle_le hq.cycleHigh }

/-- `Advance` keeps the counters in R38's ranges, whether it ends a frame, a line or neither. -/
theorem advance_inv {q : Ppu} (hq : q.nmiServed.Inv) : (advance q).nmiServed.Inv := by
  have hl : -1 ≤ q.scanline := hq.scanlineLow
  have hh : q.scanline ≤ 260 := hq.scanlineHigh
  have hc : q.cycle ≤ 340 := hq.cycleHigh
  unfold advance
  split
  · split
    · exact { hq with
        scanlineLow := Int.le_refl (-1), scanlineHigh := show (-1 : Int) ≤ 260 by decide, cycleHigh := Nat.zero_le 340 }
    · exact { hq with
        scanlineLow := show -1 ≤ q.scanline + 1 by omega, scanlineHigh := show q.scanline + 1 ≤ 260 by omega
        cycleHigh := Nat.zero_le 340 }
  · exact { hq with cycleHigh := show q.cycle + 1 ≤ 340 by omega }

/-- A PPU cycle keeps the PPU's invariant, the NMI request it may raise apart. -/
theorem ppuClock_inv_kept {c : Cart} {q q' : Ppu} (h : ppuClock c q = .ok q') (hq : q.nmiServed.Inv) : q'.nmiServed.Inv := by
  obtain ⟨q2, rfl, hp⟩ := ppuClock_effect h
  exact advance_inv (hp.inv (oddFrameSkip_inv hq))

/-! ### The state within a step -/

/-- The invariant within a step, where an NMI request may stand until delivery. -/
def State.InStepInv (s : State) : Prop := (s.setPpu s.ppu.nmiServed).Inv

theorem State.Inv.inStep {s : State} (h : s.Inv) : s.InStepInv :=
  { h with ppu := { h.ppu with nmi := rfl } }

theorem State.InStepInv.inv {s : State} (h : s.InStepInv) (hn : s.ppu.nmiReq = false) : s.Inv :=
  { h with ppu := { h.ppu with nmi := hn } }

theorem State.InStepInv.statusOk {s : State} (h : s.InStepInv) : StatusOk s.p := ⟨h.unused, h.broken⟩

/-- DMA's invariant through bus traffic, which leaves the engine alone or starts a transfer. -/
theorem Dma.Inv.of_frame {d d' : Dma} (h : d.Inv) (hd : d' = d ∨ d'.active = true) : d'.Inv := by
  rcases hd with rfl | ha
  · exact h
  · intro hn
    simp [ha] at hn

/-- Bus traffic keeps the PPU's invariant: it moves no counter, and of the status only vertical blank. -/
theorem BusFrame.ppuInv {s t : State} (h : BusFrame s t) (hq : s.ppu.nmiServed.Inv) : t.ppu.nmiServed.Inv := by
  obtain ⟨n0, n1, p0, p1, pal, oam⟩ := h.videoWf ⟨hq.nt0, hq.nt1, hq.pt0, hq.pt1, hq.pal, hq.oam⟩
  have hl : t.ppu.status &&& 0x1F = 0 := (statusLow_iff _).2 fun i hi =>
    (h.status i (by omega)).trans ((statusLow_iff _).1 hq.statusLow i hi)
  rw [h.ppu]
  exact { hq with statusLow := hl, nt0 := n0, nt1 := n1, pt0 := p0, pt1 := p1, pal := pal, oam := oam }

/-- Bus traffic of the CPU keeps the invariant, where it keeps U, B and the bound on the countdown. -/
theorem BusFrame.inStepInv {s t : State} (h : BusFrame s t) (hs : s.InStepInv) (hp : StatusOk t.p) (hc : t.cycles ≤ 8) :
    t.InStepInv where
  unused := hp.1
  broken := hp.2
  countdown := hc
  ram := h.ramWf hs.ram
  prg := (congrArg (fun n => t.cart.prg.wf n = true) h.prgLen).mpr (h.prgWf hs.prg)
  chr := (congrArg (fun n => t.cart.chr.wf n = true) h.chrLen).mpr (h.chrWf hs.chr)
  dma := Dma.Inv.of_frame hs.dma h.dma
  ppu := h.ppuInv hs.ppu

theorem scheduledIrq_inStepInv {s t : State} (h : scheduledIrq s = .ok t) (hs : s.InStepInv) : t.InStepInv := by
  have hb := scheduledIrq_busFrame h
  unfold scheduledIrq at h
  split at h
  · obtain ⟨hp, hc⟩ := cpuIrq_bounds h hs.statusOk hs.countdown
    exact hb.inStepInv hs hp hc
  · cases h; exact hs

theorem cpuClock_inStepInv {s t : State} (h : cpuClock s = .ok t) (hs : s.InStepInv) : t.InStepInv := by
  obtain ⟨hp, hc⟩ := cpuClock_bounds h hs.statusOk hs.countdown
  obtain ⟨u, rfl, ⟨_, hd⟩ | ⟨_, rfl⟩⟩ := cpuClock_inv h
  · have hb : BusFrame s (u.setCycles (u.cycles - 1)) := (dispatch_busFrame hd).thenCpu rfl
    exact { hb.inStepInv hs hp hc with }
  · exact { hs with countdown := hc }

/-- The last write of a transfer ends it with the offset back at 0 (R340). -/
theorem dmaWrite_dmaInv {s : State} (ha : s.dma.align = false) (hs : s.dma.active = true) : (dmaWrite s).dma.Inv := by
  intro hn
  refine ⟨ha, ?_⟩
  simpa [dmaWrite, hs] using hn

theorem dmaStep_inStepInv {s t : State} (h : dmaStep s = .ok t) (ha : s.dma.active = true) (hs : s.InStepInv) : t.InStepInv := by
  rcases dmaStep_cases h with ⟨_, _, rfl⟩ | ⟨_, _, rfl⟩ | ⟨_, _, b, u, hr, rfl⟩ | ⟨hal, _, rfl⟩
  · exact hs
  · exact { hs with dma := fun hn => absurd hn (by simp [ha]) }
  · have hf := busRead_effect hr
    have hu := hf.busFrame.inStepInv hs (hf.p ▸ hs.statusOk) (hf.cycles ▸ hs.countdown)
    exact { hu with dma := fun hn => absurd hn (by simp [hf.dma, ha]) }
  · exact { hs with
      dma := dmaWrite_dmaInv hal ha
      ppu := { hs.ppu with oam := Memory.wf_write _ s.dma.offset.isLt hs.ppu.oam } }

theorem slotPart_inStepInv {s t : State} (h : slotPart s = .ok t) (hs : s.InStepInv) : t.InStepInv := by
  rcases slotPart_cases h with ⟨_, rfl⟩ | ⟨_, ha, hd⟩ | ⟨_, _, hc⟩
  · exact hs
  · exact dmaStep_inStepInv hd ha hs
  · exact cpuClock_inStepInv hc hs

/-- Delivery leaves no request, so the whole invariant holds again (R333). -/
theorem nmiPart_inv {s t : State} (h : nmiPart s = .ok t) (hs : s.InStepInv) : t.Inv := by
  rcases nmiPart_cases h with ⟨hn, rfl⟩ | ⟨_, hc⟩
  · exact hs.inv hn
  · obtain ⟨hp, hy⟩ := cpuNmi_bounds hc
    have hb := cpuNmi_busFrame hc
    exact (hb.inStepInv (State.Inv.inStep hs) hp hy).inv (by rw [hb.ppu]; rfl)

theorem step_inv_kept {s t : State} (h : step s = .next t) (hs : s.Inv) : t.Inv := by
  obtain ⟨s1, q, s2, s3, h1, hq, h2, h3, rfl⟩ := step_inv h
  have hs1 := scheduledIrq_inStepInv h1 hs.inStep
  have hs1' : (s1.setPpu q).InStepInv := { hs1 with ppu := ppuClock_inv_kept hq hs1.ppu }
  have hs3 := nmiPart_inv h3 (slotPart_inStepInv h2 hs1')
  exact { hs3 with }

end Sys2Proof.Machine
end

section
/-! Proofs, part 3: the cartridge, the counters and a running DMA transfer over a whole step, and `Bus.reset()` (10_state.md R27, R41,
60_exceptions.md R330 to R342, 70_reset_and_hazards.md R450 to R453). -/

namespace Sys2Proof.Machine

open Sys2Proof.Claims

/-! ### The cartridge -/

/-- What no access changes of a cartridge: its size and mirroring, the kind of its mapper, and under CNROM its memories. -/
structure CartFrame (c c' : Cart) : Prop where
  size : c' = { c with prg := c'.prg, chr := c'.chr, mapper := c'.mapper }
  nrom : c.mapper = .nrom → c'.mapper = .nrom
  cnrom : ∀ bank, c.mapper = .cnrom bank → c'.prg = c.prg ∧ c'.chr = c.chr ∧ ∃ bank', c'.mapper = .cnrom bank'

theorem CartFrame.refl (c : Cart) : CartFrame c c := ⟨rfl, id, fun bank h => ⟨rfl, rfl, bank, h⟩⟩

theorem CartFrame.trans {c c' c'' : Cart} (h : CartFrame c c') (h' : CartFrame c' c'') : CartFrame c c'' where
  size := h'.size.trans (by rw [h.size])
  nrom := h'.nrom ∘ h.nrom
  cnrom := fun bank hm => by
    obtain ⟨hp, hc, bank', hm'⟩ := h.cnrom bank hm
    obtain ⟨hp', hc', hb⟩ := h'.cnrom bank' hm'
    exact ⟨hp'.trans hp, hc'.trans hc, hb⟩

theorem BusFrame.cartFrame {s t : State} (h : BusFrame s t) : CartFrame s.cart t.cart where
  size := h.cart
  nrom := fun hn => by
    rcases h.mapper with ⟨_, ht⟩ | ⟨b, b', hs, _⟩
    · exact ht
    · simp [hn] at hs
  cnrom := fun bank hb => by
    obtain ⟨hp, hc⟩ := h.banked (by simp [hb])
    rcases h.mapper with ⟨hs, _⟩ | ⟨_, b', _, ht⟩
    · simp [hb] at hs
    · exact ⟨hp, hc, b', ht⟩

theorem cpuClock_cartFrame {s t : State} (h : cpuClock s = .ok t) : CartFrame s.cart t.cart := by
  obtain ⟨u, rfl, ⟨_, hd⟩ | ⟨_, rfl⟩⟩ := cpuClock_inv h
  · exact (dispatch_busFrame hd).cartFrame
  · exact CartFrame.refl _

/-! ### A DMA slot -/

/-- What a DMA slot leaves in place: everything but the engine, the PPU and the controllers; and it raises no NMI request. -/
structure DmaFrame (s t : State) : Prop where
  outside : t = { s with ppu := t.ppu, padSr0 := t.padSr0, padSr1 := t.padSr1, dma := t.dma }
  nmiReq : t.ppu.nmiReq = s.ppu.nmiReq

theorem dmaStep_frame {s t : State} (h : dmaStep s = .ok t) : DmaFrame s t := by
  rcases dmaStep_cases h with ⟨_, _, rfl⟩ | ⟨_, _, rfl⟩ | ⟨_, _, b, u, hr, rfl⟩ | ⟨_, _, rfl⟩
  · exact ⟨rfl, rfl⟩
  · exact ⟨rfl, rfl⟩
  · obtain ⟨_, _, _, _, _, _, rfl, _⟩ := busRead_effect hr
    exact ⟨rfl, rfl⟩
  · exact ⟨rfl, rfl⟩

theorem DmaFrame.cart {s t : State} (h : DmaFrame s t) : t.cart = s.cart := by rw [h.outside]

/-- Read slots are the CPU slots whose M has the parity of DMA_READ_PARITY (D11). -/
theorem readParity_eq (s : State) : s.readParity = (decide (s.master % 2 = 1) == s.params.dmaReadOdd) := rfl

/-- The transfer ends with the byte at offset 0xFF. -/
theorem offset_wraps (o : Byte) : (o + 1 != 0) = decide (o ≠ 0xFF) := by
  revert o; decide

/-! ### The parts of a step -/

theorem slotPart_cartFrame {s t : State} (h : slotPart s = .ok t) : CartFrame s.cart t.cart := by
  rcases slotPart_cases h with ⟨_, rfl⟩ | ⟨_, _, hd⟩ | ⟨_, _, hc⟩
  · exact CartFrame.refl _
  · rw [(dmaStep_frame hd).cart]
    exact CartFrame.refl _
  · exact cpuClock_cartFrame hc

/-- What NMI delivery leaves in place, whether or not there is a request. -/
theorem nmiPart_keeps {s t : State} (h : nmiPart s = .ok t) :
    CartFrame s.cart t.cart ∧ t.master = s.master ∧ t.resets = s.resets ∧ t.clockCount = s.clockCount := by
  rcases nmiPart_cases h with ⟨_, rfl⟩ | ⟨_, hc⟩
  · exact ⟨CartFrame.refl _, rfl, rfl, rfl⟩
  · have hb := cpuNmi_busFrame hc
    exact ⟨hb.cartFrame, hb.master, hb.resets, hb.clockCount⟩

/-- A step is bus traffic but for the counters, the PPU's cycle and DMA, and those leave the cartridge alone. -/
theorem step_cartFrame {s t : State} (h : step s = .next t) : CartFrame s.cart t.cart := by
  obtain ⟨s1, q, s2, s3, h1, _, h2, h3, rfl⟩ := step_inv h
  have hslot := slotPart_cartFrame h2
  rw [State.setPpu_cart] at hslot
  exact ((scheduledIrq_busFrame h1).cartFrame.trans hslot).trans (nmiPart_keeps h3).1

/-! ### Counters and the freeze of a transfer -/

/-- The IRQ call due in a step leaves the state its statement names. -/
theorem scheduledIrq_of_irqCalled {s0 s : State} (h : IrqCalled s0 s) : scheduledIrq s0 = .ok s := by
  obtain ⟨hcall, hnone⟩ := h
  by_cases hm : s0.master ∈ s0.irqEvents
  · simp [scheduledIrq, hm, hcall hm]
  · rw [scheduledIrq_of_not_mem hm, hnone hm]

/-- An IRQ call starts no transfer and ends none. -/
theorem scheduledIrq_dma {s t : State} (h : scheduledIrq s = .ok t) : t.dma = s.dma := by
  unfold scheduledIrq cpuIrq at h
  split at h
  · split at h
    · cases h; rfl
    · obtain ⟨u, h1, h2⟩ := Run.bind_ok h
      cases h2
      exact (show u.dma = s.dma from (enterHandler_leaves h1).2.2)
  · cases h; rfl

/-- The CPU slot counts one CPU cycle exactly when no transfer takes it (R177, D8). -/
theorem slotPart_counters {s t : State} (h : slotPart s = .ok t) :
    t.master = s.master ∧ t.resets = s.resets ∧
      t.clockCount = s.clockCount + (if s.master % 3 = 0 ∧ s.dma.active = false then 1 else 0) := by
  rcases slotPart_cases h with ⟨hm, rfl⟩ | ⟨_, ha, hd⟩ | ⟨hm, ha, hc⟩
  · simp [hm]
  · rw [(dmaStep_frame hd).outside]
    simp [ha]
  · obtain ⟨u, rfl, ⟨_, hd⟩ | ⟨_, rfl⟩⟩ := cpuClock_inv hc
    · have hb := dispatch_busFrame hd
      simp [State.countDown, hm, ha, hb.master, hb.resets, hb.clockCount]
    · simp [State.countDown, hm, ha]

/-- All `Advance` can change: the two counters, the parity and the frame signal. -/
theorem advance_frame (q : Ppu) : advance q = { q with
    cycle := (advance q).cycle, scanline := (advance q).scanline, frameComplete := (advance q).frameComplete
    oddFrame := (advance q).oddFrame } := by
  unfold advance
  repeat' split
  all_goals rfl

/-- A PPU cycle raises an NMI request only where vertical blank starts with NMI enabled (R371). -/
theorem ppuClock_nmiReq {c : Cart} {q q' : Ppu} (h : ppuClock c q = .ok q') :
    q'.nmiReq = (q.nmiReq || (decide (q.scanline = 241) && decide (q.cycle = 1) && q.enableNmi)) := by
  obtain ⟨q2, rfl, hp⟩ := ppuClock_effect h
  rw [advance_frame]
  exact hp.nmiReq

/-- What one slot of a running transfer does, in the terms of R340. -/
theorem dmaStep_running {s t : State} (h : dmaStep s = .ok t) (ha : s.dma.active = true) :
    (s.dma.align = true → t = { s with dma := { s.dma with align := decide (s.master % 2 = 1) == s.params.dmaReadOdd } }) ∧
    (s.dma.align = false → decide (s.master % 2 = 1) = s.params.dmaReadOdd →
      ∃ b r, busRead (s.dma.page ++ s.dma.offset) s = .ok (b, r) ∧ t = { r with dma := { s.dma with data := b } }) ∧
    (s.dma.align = false → decide (s.master % 2 = 1) ≠ s.params.dmaReadOdd → t = { s with
      ppu := { s.ppu with oam := s.ppu.oam.write s.dma.offset.toNat s.dma.data }
      dma := { s.dma with offset := s.dma.offset + 1, active := decide (s.dma.offset ≠ 0xFF) } }) := by
  rcases dmaStep_cases h with ⟨hal, hp, rfl⟩ | ⟨hal, hp, rfl⟩ | ⟨hal, hp, b, u, hr, rfl⟩ | ⟨hal, hp, rfl⟩ <;>
    rw [readParity_eq] at hp
  · refine ⟨fun _ => ?_, by simp [hal], by simp [hal]⟩
    rw [hp, ← hal]
  · exact ⟨fun _ => by rw [hp]; rfl, by simp [hal], by simp [hal]⟩
  · refine ⟨by simp [hal], fun _ _ => ⟨b, u, hr, ?_⟩, fun _ hn => absurd (beq_iff_eq.1 hp) hn⟩
    rw [(busRead_effect hr).dma]
    rfl
  · refine ⟨by simp [hal], fun _ he => absurd he (beq_eq_false_iff_ne.1 hp), fun _ _ => ?_⟩
    simp only [dmaWrite, ha, Bool.true_and, offset_wraps]
    rfl

/-- While a transfer runs, the CPU slot is the engine's, and every other slot is empty. -/
theorem slotPart_running {s t : State} (h : slotPart s = .ok t) (ha : s.dma.active = true) :
    DmaFrame s t ∧ (s.master % 3 = 0 → dmaStep s = .ok t) := by
  rcases slotPart_cases h with ⟨hm, rfl⟩ | ⟨_, _, hd⟩ | ⟨_, hn, _⟩
  · exact ⟨⟨rfl, rfl⟩, fun h0 => absurd h0 hm⟩
  · exact ⟨dmaStep_frame hd, fun _ => hd⟩
  · simp [ha] at hn

theorem nmiPart_no_request {s t : State} (h : nmiPart s = .ok t) (hn : s.ppu.nmiReq = false) : t = s := by
  rcases nmiPart_cases h with ⟨_, rfl⟩ | ⟨hr, _⟩
  · rfl
  · simp [hn] at hr

/-! ### Reset -/

/-- The mapper's reset changes its register alone (R453). -/
theorem cartReset_frame (c : Cart) : cartReset c = { c with mapper := (cartReset c).mapper } := by
  unfold cartReset
  split <;> rfl

/-- The program bytes of an address do not depend on the mapper's register (R112, R114). -/
theorem prgWord_cartReset (c : Cart) (lo hi : Word) : prgWord (cartReset c) lo hi = prgWord c lo hi := by
  rw [cartReset_frame]
  rfl

/-- `CPU.reset()` answers whenever there is a program bank: PC from the reset vector, every other register as R451 gives it. -/
theorem cpuReset_eq {s : State} (h : 1 ≤ s.cart.prgBanks) :
    cpuReset s = .ok { s with
      pc := prgWord s.cart resetVector (resetVector + 1), sp := 0xFD, a := 0, x := 0, y := 0, p := 0x20
      opcode := 0, addrAbs := 0, addrRel := 0, fetched := 0, cycles := 8 } := by
  simp only [cpuReset, readPair_prg h (lo := resetVector) (hi := resetVector + 1) (by decide) (by decide), Run.ok_bind]

/-- `Bus.reset()` in closed form, whenever there is a program bank (R450 to R453). -/
theorem busReset_eq {s : State} (h : 1 ≤ s.cart.prgBanks) :
    busReset s = .ok { s with
      pc := prgWord s.cart resetVector (resetVector + 1), sp := 0xFD, a := 0, x := 0, y := 0, p := 0x20
      opcode := 0, addrAbs := 0, addrRel := 0, fetched := 0, cycles := 8
      cart := cartReset s.cart, ppu := ppuReset s.ppu, master := 0, dma := Dma.reset, resets := s.resets + 1 } := by
  have hb : 1 ≤ (s.setCart (cartReset s.cart)).cart.prgBanks := by
    rw [State.setCart_cart, cartReset_frame]
    exact h
  simp only [busReset, cpuReset_eq hb, Run.ok_bind, State.setCart_cart, prgWord_cartReset]
  rfl

end Sys2Proof.Machine
end

section
/-! Proofs, part 4: where the three PPU status flags change in a PPU cycle (60_exceptions.md R370, R371, R391, R402). -/

namespace Sys2Proof.Machine

/-! ### Tile work and scrolling change no flag -/

/-- `q'` is `q` after tile fetches, shifts and scroll updates: `v`, the background pipeline and the sprite shifters apart. -/
def TilePart (q q' : Ppu) : Prop :=
  q' = { q with
    v := q'.v, bgPatLo := q'.bgPatLo, bgPatHi := q'.bgPatHi, bgAttLo := q'.bgAttLo, bgAttHi := q'.bgAttHi
    ntId := q'.ntId, ntAttr := q'.ntAttr, ntLsb := q'.ntLsb, ntMsb := q'.ntMsb, spr := q'.spr }

theorem TilePart.refl (q : Ppu) : TilePart q q := rfl

theorem TilePart.trans {q q' q'' : Ppu} (h : TilePart q q') (h' : TilePart q' q'') : TilePart q q'' :=
  Eq.trans h' (by rw [h])

theorem updateShifters_tile (q : Ppu) : TilePart q (updateShifters q) := by
  unfold updateShifters shiftSprites shiftBackground
  repeat' split
  all_goals rfl

theorem incrementX_tile (q : Ppu) : TilePart q (incrementX q) := by
  unfold incrementX
  repeat' split
  all_goals rfl

theorem incrementY_tile (q : Ppu) : TilePart q (incrementY q) := by
  unfold incrementY
  simp only
  repeat' split
  all_goals rfl

theorem backgroundFetch_tile {c : Cart} {k : Nat} {q q' : Ppu} (h : backgroundFetch c k q = .ok q') : TilePart q q' := by
  unfold backgroundFetch at h
  split at h
  case h_5 => cases h; exact incrementX_tile q
  case h_6 => cases h; exact TilePart.refl q
  all_goals
    obtain ⟨b, _, h⟩ := Run.bind_ok h
    cases h
    rfl

theorem renderTile_tile {c : Cart} {q q' : Ppu} (h : renderTile c q = .ok q') : TilePart q q' := by
  unfold renderTile at h
  split at h
  · exact (updateShifters_tile q).trans (backgroundFetch_tile h)
  · cases h; exact TilePart.refl q

theorem renderScroll_tile (q : Ppu) : TilePart q (renderScroll q) := by
  unfold renderScroll transferX
  repeat' split
  · exact incrementY_tile q
  all_goals rfl

theorem renderUnused_tile {c : Cart} {q q' : Ppu} (h : renderUnused c q = .ok q') : TilePart q q' := by
  unfold renderUnused at h
  split at h
  · obtain ⟨b, _, h⟩ := Run.bind_ok h
    cases h
    rfl
  · cases h; exact TilePart.refl q

theorem renderVertical_tile (q : Ppu) : TilePart q (renderVertical q) := by
  unfold renderVertical transferY
  repeat' split
  all_goals rfl

/-! ### The flags before the pixel is composed -/

/-- How the status and the sprite count of `p`, the PPU whose pixel is composed, come from those of `q`, the PPU before the cycle. -/
inductive FlagsBeforePixel (q p : Ppu) : Prop where
  | clear (hs : q.scanline = -1) (hc : q.cycle = 1) (status : p.status = (preRenderClear q).status) (count : p.sprCount = 0)
  | evaluate (hl : 0 ≤ q.scanline) (hh : q.scanline ≤ 239) (hc : q.cycle = 257) (b : Bool)
      (status : p.status = setBit q.status overflowBit b)
  | vblank (hs : q.scanline = 241) (hc : q.cycle = 1) (status : p.status = setBit q.status vblankBit true)
  | keep (hclear : ¬(q.scanline = -1 ∧ q.cycle = 1)) (hvblank : ¬(q.scanline = 241 ∧ q.cycle = 1)) (status : p.status = q.status)

/-- The odd-frame skip takes cycle 0 of scanline 0 to cycle 1, and is nothing elsewhere (R361). -/
theorem oddFrameSkip_cases (q : Ppu) :
    oddFrameSkip q = q ∨ (q.scanline = 0 ∧ q.cycle = 0 ∧ oddFrameSkip q = { q with cycle := 1 }) := by
  unfold oddFrameSkip
  split
  · rename_i h
    exact .inr ⟨h.1, h.2.1, rfl⟩
  · exact .inl rfl

/-- The sprite work of a cycle writes the status at an evaluation only. -/
theorem renderSpriteWork_status {c : Cart} {q q' : Ppu} (h : renderSpriteWork c q = .ok q') :
    (q.cycle = 257 ∧ 0 ≤ q.scanline ∧ ∃ b, q'.status = setBit q.status overflowBit b) ∨
    (¬(q.cycle = 257 ∧ 0 ≤ q.scanline) ∧ q'.status = q.status ∧ q'.sprCount = q.sprCount) := by
  unfold renderSpriteWork at h
  split at h
  · rename_i hc
    cases h
    exact .inl ⟨hc.1, hc.2, _, rfl⟩
  · rename_i hc
    split at h
    · obtain ⟨l, _, h⟩ := Run.bind_ok h
      cases h
      exact .inr ⟨hc, rfl, rfl⟩
    · cases h
      exact .inr ⟨hc, rfl, rfl⟩

/-- The render step, from the PPU the pre-render clear leaves: tile work, then the sprites. -/
theorem renderStep_inv {c : Cart} {q q' : Ppu} (h : renderStep c q = .ok q') :
    ∃ p, TilePart (renderClear (oddFrameSkip q)) p ∧ renderSpriteWork c p = .ok q' := by
  obtain ⟨q1, h1, h⟩ := Run.bind_ok h
  obtain ⟨q2, h2, h⟩ := Run.bind_ok h
  exact ⟨_, (((renderTile_tile h1).trans (renderScroll_tile q1)).trans (renderUnused_tile h2)).trans (renderVertical_tile q2), h⟩

/-- The pre-render clear at its place, and nothing elsewhere. -/
theorem renderClear_cases (q : Ppu) :
    (q.scanline = -1 ∧ q.cycle = 1 ∧ renderClear q = preRenderClear q) ∨
    (¬(q.scanline = -1 ∧ q.cycle = 1) ∧ renderClear q = q) := by
  unfold renderClear
  split
  · rename_i h
    exact .inl ⟨h.1, h.2, rfl⟩
  · exact .inr ⟨by assumption, rfl⟩

/-- All the odd-frame skip can change of what the flags depend on. -/
theorem oddFrameSkip_counters (q : Ppu) :
    (oddFrameSkip q).scanline = q.scanline ∧
      ((oddFrameSkip q).cycle = q.cycle ∨ (q.scanline = 0 ∧ q.cycle = 0 ∧ (oddFrameSkip q).cycle = 1)) := by
  rcases oddFrameSkip_cases q with he | ⟨hs, hc, he⟩ <;> rw [he]
  · exact ⟨rfl, .inl rfl⟩
  · exact ⟨rfl, .inr ⟨hs, hc, rfl⟩⟩

theorem renderStep_flags {c : Cart} {q q' : Ppu} (h : renderStep c q = .ok q') (hl : -1 ≤ q.scanline) (hh : q.scanline ≤ 239) :
    FlagsBeforePixel q q' := by
  obtain ⟨p, hp, hw⟩ := renderStep_inv h
  obtain ⟨hline, hcycle⟩ := oddFrameSkip_counters q
  have hpart := renderClear_part (oddFrameSkip q)
  have hpline : p.scanline = q.scanline := by rw [← hline, ← hpart.scanline, hp]
  have hpcycle : p.cycle = (oddFrameSkip q).cycle := by rw [← hpart.cycle, hp]
  have hpstatus : p.status = (renderClear (oddFrameSkip q)).status := by rw [hp]
  have hpcount : p.sprCount = (renderClear (oddFrameSkip q)).sprCount := by rw [hp]
  have hskip : (oddFrameSkip q).status = q.status := by rw [oddFrameSkip_part]
  rcases renderClear_cases (oddFrameSkip q) with ⟨hs, hc, he⟩ | ⟨hn, he⟩ <;> rw [he] at hpstatus hpcount <;>
    rcases renderSpriteWork_status hw with ⟨hc', hl', b, hst⟩ | ⟨_, hst, hcount⟩
  · omega
  · refine .clear (by omega) (by omega) ?_ (hcount.trans hpcount)
    rw [hst, hpstatus, oddFrameSkip_part]
    rfl
  · exact .evaluate (by omega) hh (by omega) b (by rw [hst, hpstatus, hskip])
  · exact .keep (by omega) (by omega) (by rw [hst, hpstatus, hskip])

/-- The parts of a PPU cycle by what they do to the flags: `p` is the PPU whose pixel is composed. -/
theorem ppuClock_flags {c : Cart} {q q' : Ppu} (h : ppuClock c q = .ok q') :
    ∃ p q2, FlagsBeforePixel q p ∧ p.mask = q.mask ∧ p.cycle = (oddFrameSkip q).cycle ∧ composePixel c p = .ok q2 ∧
      q' = advance q2 := by
  obtain ⟨q1, q2, hv, hn, h2, rfl⟩ := ppuClock_inv h
  by_cases hl : -1 ≤ q.scanline ∧ q.scanline ≤ 239
  · have hpart := renderStep_part (hv hl)
    have hline : q1.scanline = q.scanline := hpart.scanline.trans (oddFrameSkip_counters q).1
    have hmask : q1.mask = q.mask := by rw [hpart.mask, oddFrameSkip_part]
    have hblank : vblankLine q1 = q1 := if_neg (by omega)
    rw [hblank] at h2
    exact ⟨q1, q2, renderStep_flags (hv hl) hl.1 hl.2, hmask, hpart.cycle, h2, rfl⟩
  · rw [hn hl] at h2
    rw [oddFrameSkip_of_ne (q := q) (by omega)]
    by_cases hb : q.scanline = 241 ∧ q.cycle = 1
    · have hblank : vblankLine q = vblankStart q := if_pos hb
      rw [hblank] at h2
      exact ⟨vblankStart q, q2, .vblank hb.1 hb.2 rfl, rfl, rfl, h2, rfl⟩
    · have hblank : vblankLine q = q := if_neg hb
      rw [hblank] at h2
      exact ⟨q, q2, .keep (by omega) hb rfl, rfl, rfl, h2, rfl⟩

/-! ### The pixel and the sprite-zero hit -/

/-- Without a selected sprite there is no foreground pixel. -/
theorem foregroundPixel_none {q : Ppu} (h : q.sprCount = 0) : (foregroundPixel q).1.pixel = 0 := by
  unfold foregroundPixel
  rw [h]
  split <;> rfl

/-- The hit test sets the flag where both pixels are opaque and the sprite-zero test holds, and nothing else (R402). -/
theorem priority_hit (b : BitVec 2 × BitVec 3) (f : Foreground) (q : Ppu) :
    (priority b f q).2 = q ∨ (f.pixel ≠ 0 ∧ zeroHit q = true ∧ (priority b f q).2 = q.setStatusBit zeroHitBit true) := by
  unfold priority
  split
  · exact .inl rfl
  · split
    · exact .inl rfl
    · split
      · exact .inl rfl
      · rename_i hf
        by_cases hz : zeroHit q = true
        · exact .inr ⟨hf, hz, if_pos hz⟩
        · exact .inl (if_neg hz)

/-- What the sprite-zero test asks for, in either setting of the left columns (R402, D23). -/
theorem zeroHit_of {q : Ppu} (h : zeroHit q = true) :
    q.spr0Possible = true ∧ q.spr0Rendering = true ∧ q.mask.getLsbD 3 = true ∧ q.mask.getLsbD 4 = true ∧
      1 ≤ q.cycle ∧ q.cycle ≤ 257 := by
  simp only [zeroHit, Ppu.renderBackground, Ppu.renderSprites, Bool.and_eq_true, decide_eq_true_eq] at h
  obtain ⟨⟨⟨⟨⟨hp, hr⟩, hb⟩, hs⟩, hl⟩, hh⟩ := h
  refine ⟨hp, hr, hb, hs, ?_, hh⟩
  split at hl <;> omega

/-- The composition of a pixel is the foreground pixel, the hit test and the call given to the host. -/
theorem composePixel_inv {c : Cart} {q q' : Ppu} (h : composePixel c q = .ok q') :
    ∃ px, q' = { (priority (backgroundPixel q) (foregroundPixel q).1 (foregroundPixel q).2).2 with pixel := px } := by
  obtain ⟨b, _, h⟩ := Run.bind_ok h
  cases h
  exact ⟨_, rfl⟩

/-- What holds where the composition of `q`'s pixel, which leaves `q'`, makes a sprite-zero hit (R402). -/
structure ZeroHitAt (q q' : Ppu) : Prop where
  selected : q.sprCount ≠ 0
  possible : q'.spr0Possible = true
  rendered : q'.spr0Rendering = true
  background : q.mask.getLsbD 3 = true
  sprites : q.mask.getLsbD 4 = true
  first : 1 ≤ q.cycle
  last : q.cycle ≤ 257

/-- The composition of a pixel leaves the status as it is, or makes a sprite-zero hit. -/
theorem composePixel_status {c : Cart} {q q' : Ppu} (h : composePixel c q = .ok q') :
    q'.status = q.status ∨ (q'.status = setBit q.status zeroHitBit true ∧ ZeroHitAt q q') := by
  obtain ⟨px, rfl⟩ := composePixel_inv h
  have hf := foregroundPixel_part q
  have hfs : (foregroundPixel q).2.status = q.status := by
    unfold foregroundPixel
    split <;> rfl
  rcases priority_hit (backgroundPixel q) (foregroundPixel q).1 (foregroundPixel q).2 with he | ⟨hpix, hz, he⟩ <;> rw [he]
  · exact .inl hfs
  · obtain ⟨hp, hr, hb, hs, hlo, hhi⟩ := zeroHit_of hz
    rw [hf.mask] at hb hs
    rw [hf.cycle] at hlo hhi
    exact .inr ⟨congrArg (setBit · zeroHitBit true) hfs, fun hn => hpix (foregroundPixel_none hn), hp, hr, hb, hs, hlo, hhi⟩

/-! ### The lifetimes -/

/-- The clear leaves all three flags 0 (R370). -/
theorem preRenderClear_flags (q : Ppu) : (preRenderClear q).status.getLsbD 7 = false ∧
    (preRenderClear q).status.getLsbD 6 = false ∧ (preRenderClear q).status.getLsbD 5 = false := by
  have hs : (preRenderClear q).status = setBit (setBit (setBit q.status 7 false) 6 false) 5 false := rfl
  simp [hs, getLsbD_setBit, -BitVec.getLsbD_eq_getElem]

section
variable {q p : Ppu}

/-- Vertical blank before the pixel is composed: 0 after the clear, 1 where it starts, and otherwise as it was. -/
theorem FlagsBeforePixel.vblank_eq (h : FlagsBeforePixel q p) :
    p.status.getLsbD 7 = if q.scanline = -1 ∧ q.cycle = 1 then false
      else if q.scanline = 241 ∧ q.cycle = 1 then true else q.status.getLsbD 7 := by
  cases h with
  | clear hs hc status =>
    rw [status, if_pos ⟨hs, hc⟩]
    exact (preRenderClear_flags q).1
  | evaluate hl hh hc b status => simp [status, getLsbD_setBit, -BitVec.getLsbD_eq_getElem, overflowBit, hc]
  | vblank hs hc status => simp [status, getLsbD_setBit, -BitVec.getLsbD_eq_getElem, vblankBit, hs, hc]
  | keep hclear hvblank status => rw [status, if_neg hclear, if_neg hvblank]

/-- The sprite-zero hit before the pixel is composed: 0 after the clear, and otherwise as it was. -/
theorem FlagsBeforePixel.zeroHit_eq (h : FlagsBeforePixel q p) :
    p.status.getLsbD 6 = if q.scanline = -1 ∧ q.cycle = 1 then false else q.status.getLsbD 6 := by
  cases h with
  | clear hs hc status =>
    rw [status, if_pos ⟨hs, hc⟩]
    exact (preRenderClear_flags q).2.1
  | evaluate hl hh hc b status => simp [status, getLsbD_setBit, -BitVec.getLsbD_eq_getElem, overflowBit, hc]
  | vblank hs hc status => simp [status, getLsbD_setBit, -BitVec.getLsbD_eq_getElem, vblankBit, hs]
  | keep hclear hvblank status => rw [status, if_neg hclear]

/-- Sprite overflow before the pixel is composed: 0 after the clear, and otherwise as it was but at an evaluation. -/
theorem FlagsBeforePixel.overflow (h : FlagsBeforePixel q p) :
    (q.scanline = -1 ∧ q.cycle = 1 → p.status.getLsbD 5 = false) ∧
    (p.status.getLsbD 5 ≠ q.status.getLsbD 5 →
      (q.cycle = 257 ∧ 0 ≤ q.scanline ∧ q.scanline ≤ 239) ∨ (q.scanline = -1 ∧ q.cycle = 1)) := by
  cases h with
  | clear hs hc status => exact ⟨fun _ => status ▸ (preRenderClear_flags q).2.2, fun _ => .inr ⟨hs, hc⟩⟩
  | evaluate hl hh hc b status => exact ⟨fun hn => by omega, fun _ => .inl ⟨hc, hl, hh⟩⟩
  | vblank hs hc status =>
    refine ⟨fun hn => by omega, fun hn => absurd ?_ hn⟩
    simp [status, getLsbD_setBit, -BitVec.getLsbD_eq_getElem, vblankBit]
  | keep hclear hvblank status => exact ⟨fun hn => absurd hn hclear, fun hn => absurd (by rw [status]) hn⟩

/-- After the clear no sprite is selected. -/
theorem FlagsBeforePixel.count (h : FlagsBeforePixel q p) (hs : q.scanline = -1) (hc : q.cycle = 1) : p.sprCount = 0 := by
  cases h with
  | clear _ _ _ count => exact count
  | evaluate hl => omega
  | vblank hs' => omega
  | keep hclear => exact absurd ⟨hs, hc⟩ hclear

end

/-- The low five status bits are not the renderer's to change. -/
theorem ppuClock_statusLow {c : Cart} {q q' : Ppu} (h : ppuClock c q = .ok q') {i : Nat} (hi : i < 5) :
    q'.status.getLsbD i = q.status.getLsbD i := by
  obtain ⟨q2, rfl, hp⟩ := ppuClock_effect h
  have hskip : (oddFrameSkip q).status = q.status := by rw [oddFrameSkip_part]
  rw [advance_frame, ← hskip]
  exact hp.low i hi

/-- A sprite-zero hit changes its own bit alone. -/
theorem composePixel_otherBits {c : Cart} {q q' : Ppu} (h : composePixel c q = .ok q') {i : Nat} (hi : i ≠ 6) :
    q'.status.getLsbD i = q.status.getLsbD i := by
  rcases composePixel_status h with hst | ⟨hst, _⟩ <;> rw [hst]
  rw [getLsbD_setBit _ (by decide)]
  exact if_neg hi

theorem composePixel_zeroHit {c : Cart} {q q' : Ppu} (h : composePixel c q = .ok q') :
    q'.status.getLsbD 6 = q.status.getLsbD 6 ∨ (q'.status.getLsbD 6 = true ∧ ZeroHitAt q q') := by
  rcases composePixel_status h with hst | ⟨hst, hhit⟩ <;> rw [hst]
  · exact .inl rfl
  · exact .inr ⟨by rw [getLsbD_setBit _ (by decide)]; rfl, hhit⟩

end Sys2Proof.Machine
end

section
/-! Proofs, part 5: the statements settled. -/

namespace Sys2Proof.Settled

open Sys2Proof.Machine Sys2Proof.Claims

/-- Settles O56, field by field. -/
theorem resetMeetsInvariant : Obligations.ResetMeetsInvariant where
  unused := by decide
  broken := by decide
  countdown := by decide
  ram := rfl
  prg := rfl
  chr := rfl
  dma := fun _ => ⟨rfl, rfl⟩
  ppu := {
    scanlineLow := by decide, scanlineHigh := by decide, cycleHigh := by decide, slots := rfl, attr := by decide
    statusLow := rfl, nmi := rfl, nt0 := rfl, nt1 := rfl, pt0 := rfl, pt1 := rfl, pal := rfl, oam := rfl }

/-- Settles O58: each of the four parts of a step keeps the invariant within the step, and NMI delivery ends it with no request. -/
theorem stepKeepsInvariant : Obligations.StepKeepsInvariant := fun _ _ hs h => step_inv_kept h hs

/-- Settles O54: what `step_cartFrame` says, field by field. -/
theorem cartridgeOverAStep : Obligations.CartridgeOverAStep := by
  intro s t h
  have hc := step_cartFrame h
  exact ⟨by rw [hc.size], by rw [hc.size], by rw [hc.size], hc.nrom, hc.cnrom⟩

/-- Settles O52: the counters part by part; and with a transfer running and no request the step ends with its DMA slot. -/
theorem countersAndDmaFreeze : Obligations.CountersAndDmaFreeze := by
  intro s0 s t hirq h
  obtain ⟨s1, q, s2, s3, h1, hq, h2, h3, rfl⟩ := step_inv h
  obtain rfl : s = s1 := Except.ok.inj ((scheduledIrq_of_irqCalled hirq).symm.trans h1)
  have hb := scheduledIrq_busFrame h1
  have hdma := scheduledIrq_dma h1
  obtain ⟨hm, hr, hc⟩ := slotPart_counters h2
  obtain ⟨_, hm', hr', hc'⟩ := nmiPart_keeps h3
  simp only [State.setPpu_master, State.setPpu_resets, State.setPpu_clockCount, State.setPpu_dma, hb.master, hb.resets,
    hb.clockCount, hdma] at hm hr hc
  refine ⟨by simp [hm', hm], hr'.trans hr, hc'.trans hc, fun ha hn hv => ?_⟩
  have hqn : q.nmiReq = false := by simpa [ppuClock_nmiReq hq, hn, Ppu.enableNmi] using hv
  obtain ⟨hf, hd⟩ := slotPart_running h2 ha
  obtain rfl := nmiPart_no_request h3 (hf.nmiReq.trans hqn)
  have hsame : SameRegisters s s3 ∧ s3.cycles = s.cycles ∧ s3.ram = s.ram ∧ s3.cart = s.cart ∧ s3.opcode = s.opcode := by
    rw [hf.outside]
    exact ⟨⟨rfl, rfl, rfl, rfl, rfl, rfl⟩, rfl, rfl, rfl, rfl⟩
  obtain ⟨hregs, hcyc, hram, hcart, hop⟩ := hsame
  refine ⟨hregs, hcyc, hram, hcart, hop, fun h0 => ⟨q, s3, hq, hd h0, ?_, dmaStep_running (hd h0) ha⟩⟩
  rw [hm, ← hb.master]
  rfl

/-- Settles O55: the closed form of `Bus.reset()`, read field by field. -/
theorem busReset : Obligations.BusReset := by
  intro s h
  refine ⟨_, busReset_eq h, ?_⟩
  have hcnrom : ∀ bank, s.cart.mapper = .cnrom bank → cartReset s.cart = { s.cart with mapper := .cnrom 0 } := by
    intro bank hm
    simp [cartReset, hm]
  have hnrom : s.cart.mapper = .nrom → cartReset s.cart = s.cart := by
    intro hm
    simp [cartReset, hm]
  refine ⟨rfl, rfl, rfl, rfl, rfl, rfl, rfl, rfl, rfl, rfl, rfl, rfl, rfl, hcnrom, hnrom, ?_⟩
  and_intros <;> rfl

/-- Settles O42: each flag before the pixel is composed, and then the hit, which changes bit 6 alone and needs a selected sprite. -/
theorem statusFlagLifetimes : Obligations.StatusFlagLifetimes := by
  intro c q q' h
  have hlow := fun (i : Nat) (hi : i < 5) => ppuClock_statusLow h hi
  obtain ⟨p, q2, hflags, hmask, hcycle, hpix, rfl⟩ := ppuClock_flags h
  have hskip := (oddFrameSkip_counters q).2
  have h7 := hflags.vblank_eq
  have h6 := hflags.zeroHit_eq
  obtain ⟨h5clear, h5⟩ := hflags.overflow
  rw [← composePixel_otherBits hpix (by decide)] at h7
  rw [← composePixel_otherBits hpix (by decide)] at h5clear h5
  rw [advance_frame] at hlow ⊢
  refine ⟨fun hv => ?_, fun hc => ⟨?_, ?_, h5clear hc⟩, fun hn => ?_, fun hq hq' => ?_, fun hq hq' => ?_, h5, hlow⟩
  · exact h7.trans (by rw [if_neg (by omega), if_pos hv])
  · exact h7.trans (if_pos hc)
  · rcases composePixel_zeroHit hpix with hsame | ⟨_, hhit⟩
    · exact hsame.trans (h6.trans (if_pos hc))
    · exact absurd (hflags.count hc.1 hc.2) hhit.selected
  · by_contra hne
    exact hn (h7.trans (by rw [if_neg (by omega), if_neg (by omega)]))
  · by_contra hne
    rw [if_neg hne, hq] at h6
    rcases composePixel_zeroHit hpix with hsame | ⟨hset, _⟩
    · exact absurd (hq'.symm.trans (hsame.trans h6)) (by decide)
    · exact absurd (hq'.symm.trans hset) (by decide)
  · rcases composePixel_zeroHit hpix with hsame | ⟨_, hhit⟩
    · rw [hq, ite_self] at h6
      exact absurd (hq'.symm.trans (hsame.trans h6)) (by decide)
    · have hfirst := hhit.first
      have hlast := hhit.last
      rw [hcycle] at hfirst hlast
      exact ⟨hmask ▸ hhit.background, hmask ▸ hhit.sprites, hhit.possible, hhit.rendered, by omega, by omega⟩

end Sys2Proof.Settled
end

section
/-! Proofs, part 6: the shapes of the instructions, by the bus accesses they make (30_encoding.md R145, 40_dispatch.md R173, R179). -/

namespace Sys2Proof.Machine

open Sys2Proof.Claims

/-- `t` is `s` with other CPU registers and other RAM: no device, no cartridge and no counter of the host differs. -/
def LocalChange (s t : State) : Prop :=
  t = { s with
    a := t.a, x := t.x, y := t.y, sp := t.sp, pc := t.pc, p := t.p, opcode := t.opcode, addrAbs := t.addrAbs
    addrRel := t.addrRel, fetched := t.fetched, cycles := t.cycles, ram := t.ram }

/-- The bus address an operand is read at, if it stands in memory. -/
def operandReads (o : Operand) (s : State) : List Word :=
  match o with
  | .imm _ => []
  | .mem m => [(addrOf m s).1]

theorem LocalChange.trans {s t u : State} (h : LocalChange s t) (h' : LocalChange t u) : LocalChange s u :=
  Eq.trans h' (by rw [h])

theorem CpuOnly.localChange {s t : State} (h : CpuOnly s t) : LocalChange s t := Eq.trans h (by rw [h])

/-- What an instruction does on the bus: read an operand, store, read and write back, follow a jump pointer, enter the BRK handler, or
change nothing but RAM and the registers. Each shape says which addresses of `readFrom` and `storedTo` it accesses. -/
inductive BusShape (i : Instr) (s : State) : Prop where
  | read (op : Byte) (o : Operand) (asks : Bool) (f : Byte → State → State)
      (meaning : exec i s = toOutcome (readInstr op o asks f s)) (registers : ∀ b u, CpuOnly u (f b u))
      (reads : readFrom i s = operandReads o s)
  | store (op : Byte) (m : Addr) (r : State → Byte) (meaning : exec i s = toOutcome (storeInstr op m r s))
      (reads : readFrom i s = []) (stores : storedTo i s = [(addrOf m s).1])
  | modify (op : Byte) (m : Addr) (f : Byte → Byte → Byte × Byte) (meaning : exec i s = toOutcome (rmwInstr op m f s))
      (reads : readFrom i s = [(addrOf m s).1]) (stores : storedTo i s = [(addrOf m s).1])
  | pointer (w : Word) (instr : i = .jmp (.ind w))
  | handler (instr : i = .brk)
  | quiet (t : State) (meaning : exec i s = .next t) (change : LocalChange s t) (reads : readFrom i s = [])

theorem operandReads_eq (o : Operand) (s : State) :
    operandReads o s = match memPart o with
      | some m => [(addrOf m s).1]
      | none => [] := by
  cases o <;> rfl

/-- An instruction whose meaning always answers, with a change of RAM and the registers alone. -/
theorem busShape_of_quiet {i : Instr} {s t : State} {x : Run State} (h : exec i s = toOutcome x) (hx : x = .ok t)
    (hc : LocalChange s t) (hr : readFrom i s = []) : BusShape i s :=
  .quiet t (by rw [h, hx]; rfl) hc hr

/-- A shift of the accumulator is quiet; a shift in memory is a read-modify-write. -/
theorem busShape_of_shift {i : Instr} {s : State} {op : Byte} {d : ShiftDst} {f : ShiftFn}
    (h : exec i s = toOutcome (shiftInstr op d f s)) (hacc : d = .acc → readFrom i s = [])
    (hmem : ∀ m, d = .mem m → readFrom i s = [(addrOf (rmwAddr m) s).1] ∧ storedTo i s = [(addrOf (rmwAddr m) s).1]) :
    BusShape i s := by
  cases d with
  | acc => exact busShape_of_quiet h rfl rfl (hacc rfl)
  | mem m =>
    obtain ⟨hr, hw⟩ := hmem m rfl
    rw [shiftInstr] at h
    exact .modify _ _ _ h hr hw

/-- A branch moves PC and counts cycles at most. -/
theorem busShape_of_branch {i : Instr} {s : State} {op d : Byte} {c : State → Bool}
    (h : exec i s = toOutcome (branchInstr op d c s)) (hr : readFrom i s = []) : BusShape i s :=
  busShape_of_quiet h rfl (branchInstr_cpuOnly rfl).localChange hr

/-- Every instruction has one of the six shapes. -/
theorem exec_busShape (i : Instr) (s : State) : BusShape i s := by
  cases i
  case lda m => exact .read _ _ _ _ rfl (fun _ _ => rfl) (operandReads_eq _ s).symm
  case ldx m => exact .read _ _ _ _ rfl (fun _ _ => rfl) (operandReads_eq _ s).symm
  case ldy m => exact .read _ _ _ _ rfl (fun _ _ => rfl) (operandReads_eq _ s).symm
  case adc m => exact .read _ _ _ _ rfl (fun _ _ => rfl) (operandReads_eq _ s).symm
  case sbc m => exact .read _ _ _ _ rfl (fun _ _ => rfl) (operandReads_eq _ s).symm
  case and m => exact .read _ _ _ _ rfl (fun _ _ => rfl) (operandReads_eq _ s).symm
  case ora m => exact .read _ _ _ _ rfl (fun _ _ => rfl) (operandReads_eq _ s).symm
  case eor m => exact .read _ _ _ _ rfl (fun _ _ => rfl) (operandReads_eq _ s).symm
  case bit m => exact .read _ _ _ _ rfl (fun _ _ => rfl) (operandReads_eq _ s).symm
  case cmp m => exact .read _ _ _ _ rfl (fun _ _ => rfl) (operandReads_eq _ s).symm
  case cpx m => exact .read _ _ _ _ rfl (fun _ _ => rfl) (operandReads_eq _ s).symm
  case cpy m => exact .read _ _ _ _ rfl (fun _ _ => rfl) (operandReads_eq _ s).symm
  case sta m => exact .store _ _ _ rfl rfl rfl
  case stx m => exact .store _ _ _ rfl rfl rfl
  case sty m => exact .store _ _ _ rfl rfl rfl
  case inc m => exact .modify _ _ _ rfl rfl rfl
  case dec m => exact .modify _ _ _ rfl rfl rfl
  case asl d => exact busShape_of_shift rfl (fun h => by rw [h]; rfl) (fun m h => by rw [h]; exact ⟨rfl, rfl⟩)
  case lsr d => exact busShape_of_shift rfl (fun h => by rw [h]; rfl) (fun m h => by rw [h]; exact ⟨rfl, rfl⟩)
  case rol d => exact busShape_of_shift rfl (fun h => by rw [h]; rfl) (fun m h => by rw [h]; exact ⟨rfl, rfl⟩)
  case ror d => exact busShape_of_shift rfl (fun h => by rw [h]; rfl) (fun m h => by rw [h]; exact ⟨rfl, rfl⟩)
  case bcc d => exact busShape_of_branch (by rw [exec, execBcc]) rfl
  case bcs d => exact busShape_of_branch (by rw [exec, execBcs]) rfl
  case beq d => exact busShape_of_branch (by rw [exec, execBeq]) rfl
  case bmi d => exact busShape_of_branch (by rw [exec, execBmi]) rfl
  case bne d => exact busShape_of_branch (by rw [exec, execBne]) rfl
  case bpl d => exact busShape_of_branch (by rw [exec, execBpl]) rfl
  case bvc d => exact busShape_of_branch (by rw [exec, execBvc]) rfl
  case bvs d => exact busShape_of_branch (by rw [exec, execBvs]) rfl
  case pha => exact .quiet _ (by rw [exec, execPha, stackInstr, push_eq, toOutcome_ok]) (by rfl) rfl
  case php => exact .quiet _ (by rw [exec, execPhp, stackInstr, push_eq, toOutcome_ok]) (by rfl) rfl
  case pla => exact .quiet _ (by rw [exec, execPla, stackInstr, pull_eq, Run.ok_bind, toOutcome_ok]) (by rfl) rfl
  case plp => exact .quiet _ (by rw [exec, execPlp, stackInstr, pull_eq, Run.ok_bind, toOutcome_ok]) (by rfl) rfl
  case rts => exact .quiet _ (by rw [exec, execRts, stackInstr, pullWord_eq, Run.ok_bind, toOutcome_ok]) (by rfl) rfl
  case rti => exact .quiet _ (by rw [exec, execRti, stackInstr, returnFromHandler_eq, toOutcome_ok]) (by rfl) rfl
  case jsr w => exact .quiet _ (by rw [exec, execJsr, pushWord_eq, Run.ok_bind, toOutcome_ok]) (by rfl) rfl
  case jmp m => cases m with
    | abs w => exact .quiet _ rfl rfl rfl
    | ind w => exact .pointer w rfl
  case brk => exact .handler rfl
  all_goals exact .quiet _ rfl rfl rfl

end Sys2Proof.Machine
end

section
/-! Proofs, part 7: the one way an operation can stop, the fault of 20_memory.md R116, from a byte of the cartridge up to a whole step. -/

namespace Sys2Proof.Machine

/-- If it stops, it stops with the fault of R116: it is never refused. -/
def Run.StopsByFault {α : Type} (x : Run α) : Prop := ∀ e, x = .error e → e = .fault .cartOffsetOutOfRange

theorem stopsByFault_ok {α : Type} (a : α) : Run.StopsByFault (.ok a) := by
  intro e h
  cases h

theorem stopsByFault_of_answer {α : Type} {x : Run α} (h : ∃ a, x = .ok a) : Run.StopsByFault x := by
  obtain ⟨a, rfl⟩ := h
  exact stopsByFault_ok a

theorem Run.StopsByFault.bind {α β : Type} {x : Run α} {f : α → Run β} (hx : Run.StopsByFault x)
    (hf : ∀ a, Run.StopsByFault (f a)) : Run.StopsByFault (x >>= f) := by
  intro e h
  cases x with
  | ok a => exact hf a e h
  | error e' => exact hx e (by simpa using h)

theorem Run.StopsByFault.map {α β : Type} {x : Run α} (hx : Run.StopsByFault x) (f : α → β) : Run.StopsByFault (x.map f) := by
  intro e h
  cases x with
  | ok a => simp at h
  | error e' => exact hx e (by simpa using h)

theorem Run.StopsByFault.not_refused {x : Run State} (hx : Run.StopsByFault x) (r : Refusal) : toOutcome x ≠ .refused r := by
  intro h
  cases x with
  | ok s => cases h
  | error e =>
    obtain rfl := hx e rfl
    cases h

/-- An outcome that is no refusal, as a result. -/
theorem stopsByFault_ofOutcome {o : Host.Outcome State Fault Refusal} (h : ∀ r, o ≠ .refused r) :
    Run.StopsByFault (ofOutcome o) := by
  cases o with
  | next s => exact stopsByFault_ok s
  | fault r =>
    intro e he
    cases r
    cases he
    rfl
  | refused r => exact absurd rfl (h r)

/-! ### The bus -/

/-- A byte of the cartridge, or the fault of R116. -/
theorem stopsByFault_guard {α : Type} (p : Prop) [Decidable p] (a : α) :
    Run.StopsByFault (if p then .ok a else .error (.fault .cartOffsetOutOfRange)) := by
  intro e h
  split at h <;> cases h
  rfl

theorem ppuRead_stops (c : Cart) (q : Ppu) (a : Word) : Run.StopsByFault (ppuRead c q a) := by
  unfold ppuRead
  simp only
  split
  · exact stopsByFault_guard _ _
  · split
    · exact stopsByFault_ok _
    · split <;> exact stopsByFault_ok _

theorem ppuPortRead_stops (c : Cart) (p : PpuPort) (q : Ppu) : Run.StopsByFault (ppuPortRead c p q) := by
  cases p
  case data => exact (ppuRead_stops c q q.vAddr).bind fun _ => stopsByFault_ok _
  all_goals exact stopsByFault_ok _

theorem busRead_stops (a : Word) (s : State) : Run.StopsByFault (busRead a s) := by
  rw [busRead_locate]
  split
  case h_1 => exact (stopsByFault_guard _ _).map _
  case h_3 => exact (ppuPortRead_stops _ _ _).map _
  all_goals exact stopsByFault_ok _

theorem busWrite_stops (a : Word) (v : Byte) (s : State) : Run.StopsByFault (busWrite a v s) := by
  rw [busWrite_locate]
  split
  case h_1 =>
    split
    · exact (stopsByFault_guard _ _).map _
    · exact stopsByFault_ok _
  case h_3 => exact (stopsByFault_of_answer (ppuPortWrite_ok _ _ _ _)).map _
  all_goals exact stopsByFault_ok _

theorem readPair_stops (lo hi : Word) (s : State) : Run.StopsByFault (readPair lo hi s) :=
  (busRead_stops lo s).bind fun _ => (busRead_stops hi _).bind fun _ => stopsByFault_ok _

theorem enterHandler_stops (vec : Word) (pushed after : Byte) (s : State) :
    Run.StopsByFault (enterHandler vec pushed after s) := by
  unfold enterHandler
  rw [pushWord_eq, Run.ok_bind, push_eq, Run.ok_bind]
  exact (readPair_stops _ _ _).bind fun _ => stopsByFault_ok _

theorem cpuIrq_stops (s : State) : Run.StopsByFault (cpuIrq s) := by
  unfold cpuIrq
  split
  · exact stopsByFault_ok s
  · exact (enterHandler_stops _ _ _ s).bind fun _ => stopsByFault_ok _

theorem cpuNmi_stops (s : State) : Run.StopsByFault (cpuNmi s) :=
  (enterHandler_stops _ _ _ s).bind fun _ => stopsByFault_ok _

/-! ### Instructions -/

theorem fetchOperand_stops (ea : Word) (s : State) : Run.StopsByFault (fetchOperand ea s) :=
  (busRead_stops ea s).bind fun _ => stopsByFault_ok _

theorem resolve_stops (m : Addr) (s : State) : Run.StopsByFault (resolve m s) :=
  stopsByFault_of_answer ⟨_, resolve_eq m s⟩

theorem readOperand_stops (o : Operand) (s : State) : Run.StopsByFault (readOperand o s) := by
  cases o with
  | imm b => exact stopsByFault_ok _
  | mem m => exact (resolve_stops m s).bind fun _ => (fetchOperand_stops _ _).bind fun _ => stopsByFault_ok _

/-- No instruction is refused, in any state. -/
theorem exec_not_refused (i : Instr) (s : State) (r : Refusal) : exec i s ≠ .refused r := by
  cases exec_busShape i s with
  | read op o asks f meaning => exact meaning ▸ ((readOperand_stops o _).bind fun _ => stopsByFault_ok _).not_refused r
  | store op m g meaning => exact meaning ▸ ((resolve_stops m _).bind fun _ => busWrite_stops _ _ _).not_refused r
  | modify op m f meaning =>
    exact meaning ▸ ((resolve_stops m _).bind fun _ => (fetchOperand_stops _ _).bind fun _ => busWrite_stops _ _ _).not_refused r
  | pointer w instr =>
    rw [instr]
    exact ((readPair_stops _ _ _).bind fun _ => stopsByFault_ok _).not_refused r
  | handler instr =>
    rw [instr]
    exact (enterHandler_stops _ _ _ _).not_refused r
  | quiet t meaning => simp [meaning]

/-! ### The CPU cycle -/

theorem fetchByte_stops (s : State) : Run.StopsByFault (fetchByte s) :=
  (busRead_stops s.pc s).bind fun _ => stopsByFault_ok _

theorem fetchForm_stops (form : Form) (s : State) : Run.StopsByFault (fetchForm form s) := by
  cases form with
  | implied i => exact stopsByFault_ok _
  | padded i => exact stopsByFault_ok _
  | byte f => exact (fetchByte_stops s).bind fun _ => stopsByFault_ok _
  | word f => exact (fetchByte_stops s).bind fun _ => (fetchByte_stops _).bind fun _ => stopsByFault_ok _

theorem dispatch_stops (s : State) : Run.StopsByFault (dispatch s) :=
  ((fetchByte_stops s).bind fun _ => fetchForm_stops _ _).bind fun _ => stopsByFault_ofOutcome (exec_not_refused _ _)

theorem cpuClock_stops (s : State) : Run.StopsByFault (cpuClock s) := by
  refine Run.StopsByFault.bind ?_ fun _ => stopsByFault_ok _
  unfold dispatchIfDue
  split
  · exact dispatch_stops s
  · exact stopsByFault_ok s

/-! ### The PPU's cycle -/

theorem backgroundFetch_stops (c : Cart) (k : Nat) (q : Ppu) : Run.StopsByFault (backgroundFetch c k q) := by
  unfold backgroundFetch
  split
  case h_5 => exact stopsByFault_ok _
  case h_6 => exact stopsByFault_ok _
  all_goals exact (ppuRead_stops c _ _).bind fun _ => stopsByFault_ok _

theorem fetchSprite_stops (c : Cart) (q : Ppu) (x : SpriteSlot) : Run.StopsByFault (fetchSprite c q x) := by
  refine (ppuRead_stops c q _).bind fun _ => (ppuRead_stops c q _).bind fun _ => ?_
  split <;> exact stopsByFault_ok _

theorem fetchSprites_stops (c : Cart) (q : Ppu) (n : Nat) (l : List SpriteSlot) : Run.StopsByFault (fetchSprites c q n l) := by
  induction l generalizing n with
  | nil => cases n <;> exact stopsByFault_ok _
  | cons x l ih =>
    cases n with
    | zero => exact stopsByFault_ok _
    | succ n => exact (fetchSprite_stops c q x).bind fun _ => (ih n).bind fun _ => stopsByFault_ok _

theorem renderTile_stops (c : Cart) (q : Ppu) : Run.StopsByFault (renderTile c q) := by
  unfold renderTile
  split
  · exact backgroundFetch_stops c _ _
  · exact stopsByFault_ok _

theorem renderUnused_stops (c : Cart) (q : Ppu) : Run.StopsByFault (renderUnused c q) := by
  unfold renderUnused
  split
  · exact (ppuRead_stops c q _).bind fun _ => stopsByFault_ok _
  · exact stopsByFault_ok _

theorem renderSpriteWork_stops (c : Cart) (q : Ppu) : Run.StopsByFault (renderSpriteWork c q) := by
  unfold renderSpriteWork
  split
  · exact stopsByFault_ok _
  · split
    · exact (fetchSprites_stops c q _ _).bind fun _ => stopsByFault_ok _
    · exact stopsByFault_ok _

theorem renderStep_stops (c : Cart) (q : Ppu) : Run.StopsByFault (renderStep c q) :=
  (renderTile_stops c _).bind fun _ => (renderUnused_stops c _).bind fun _ => renderSpriteWork_stops c _

theorem renderLine_stops (c : Cart) (q : Ppu) : Run.StopsByFault (renderLine c q) := by
  unfold renderLine
  split
  · exact renderStep_stops c q
  · exact stopsByFault_ok _

theorem composePixel_stops (c : Cart) (q : Ppu) : Run.StopsByFault (composePixel c q) :=
  (ppuRead_stops c _ _).bind fun _ => stopsByFault_ok _

theorem ppuClock_stops (c : Cart) (q : Ppu) : Run.StopsByFault (ppuClock c q) :=
  (renderLine_stops c q).bind fun _ => (composePixel_stops c _).bind fun _ => stopsByFault_ok _

/-! ### The step -/

theorem dmaStep_stops (s : State) : Run.StopsByFault (dmaStep s) := by
  unfold dmaStep
  split
  · exact stopsByFault_ok _
  · split
    · exact (busRead_stops _ s).bind fun _ => stopsByFault_ok _
    · exact stopsByFault_ok _

theorem scheduledIrq_stops (s : State) : Run.StopsByFault (scheduledIrq s) := by
  unfold scheduledIrq
  split
  · exact cpuIrq_stops s
  · exact stopsByFault_ok s

theorem slotPart_stops (s : State) : Run.StopsByFault (slotPart s) := by
  unfold slotPart
  split
  · split
    · exact dmaStep_stops s
    · exact cpuClock_stops s
  · exact stopsByFault_ok s

theorem nmiPart_stops (s : State) : Run.StopsByFault (nmiPart s) := by
  unfold nmiPart
  split
  · exact cpuNmi_stops _
  · exact stopsByFault_ok s

/-- A master step stops by the fault of R116 or not at all. -/
theorem masterStep_stops (s : State) : Run.StopsByFault (masterStep s) :=
  (scheduledIrq_stops s).bind fun _ => ((ppuClock_stops _ _).bind fun _ => stopsByFault_ok _).bind fun _ =>
    (slotPart_stops _).bind fun _ => (nmiPart_stops _).bind fun _ => stopsByFault_ok _

end Sys2Proof.Machine
end

section
/-! Proofs, part 8: exactly when a bus access, an instruction and a step stop (20_memory.md R115, R116, 40_dispatch.md R183). -/

namespace Sys2Proof.Machine

open Sys2Proof.Claims

/-! ### PPU addresses -/

/-- A mask of `k` low bits is a remainder. -/
theorem toNat_and_lowMask (a m : Word) (k : Nat) (hm : m.toNat = 2 ^ k - 1) : (a &&& m).toNat = a.toNat % 2 ^ k := by
  rw [BitVec.toNat_and, hm, Nat.and_two_pow_sub_one_eq_mod]

/-- The PPU's address space has 14 bits (R105, D31). -/
theorem ppuAddr_toNat (a : Word) : (ppuAddr a).toNat = a.toNat % 16384 := toNat_and_lowMask a _ 14 rfl

theorem vAddr_toNat (q : Ppu) : q.vAddr.toNat = q.v.toNat := by
  have := q.v.isLt
  simp only [Ppu.vAddr, BitVec.toNat_setWidth]
  omega

/-- Where in CHR a pattern address stands: at its own offset, in the bank the register names under CNROM (R113, R115). -/
def patternOffset (c : Cart) (n : Nat) : Nat :=
  match c.mapper with
  | .nrom => n
  | .cnrom bank => bank.toNat * 0x2000 + n

/-- Every pattern read is a read of CHR (R106). -/
theorem ppuRead_pattern (c : Cart) (q : Ppu) {a : Word} (h : a.toNat % 16384 ≤ 0x1FFF) :
    ppuRead c q a = chrByte c (patternOffset c (a.toNat % 16384)) := by
  simp only [ppuRead, ppuMapRead, ppuAddr_toNat, if_pos h, patternOffset]
  cases c.mapper <;> rfl

/-- A read from 0x2000 up is a read of the PPU's own memory: it always answers. -/
theorem ppuRead_video_ok (c : Cart) (q : Ppu) {a : Word} (h : ¬ a.toNat % 16384 ≤ 0x1FFF) : ∃ b, ppuRead c q a = .ok b := by
  simp only [ppuRead, ppuMapRead, ppuAddr_toNat, if_neg h]
  split <;> exact ⟨_, rfl⟩

/-- A CNROM bank number names no CHR bank. -/
def Cart.bankMissing (c : Cart) : Prop := ∃ bank, c.mapper = .cnrom bank ∧ max 1 c.chrBanks ≤ bank.toNat

/-- A pattern offset is beyond CHR exactly when the bank number names no bank. -/
theorem patternOffset_beyond (c : Cart) {n : Nat} (hn : n ≤ 0x1FFF) : ¬ patternOffset c n < c.chrLen ↔ c.bankMissing := by
  unfold patternOffset Cart.chrLen Cart.bankMissing
  cases c.mapper with
  | nrom =>
    simp only [reduceCtorEq, false_and, exists_false, iff_false, not_not]
    omega
  | cnrom bank =>
    simp only [Mapper.cnrom.injEq, exists_eq_left']
    omega

/-- `PpuRead` stops exactly at a pattern address under a bank number that names no bank (R116). -/
theorem ppuRead_stops_iff (c : Cart) (q : Ppu) (a : Word) :
    ppuRead c q a = .error (.fault .cartOffsetOutOfRange) ↔ a.toNat % 16384 ≤ 0x1FFF ∧ c.bankMissing := by
  by_cases h : a.toNat % 16384 ≤ 0x1FFF
  · rw [ppuRead_pattern c q h, ← patternOffset_beyond c h, chrByte]
    split
    · simp [*]
    · simp [*]
  · obtain ⟨b, hb⟩ := ppuRead_video_ok c q h
    simp [hb, h]

/-! ### Errors through sequences -/

theorem map_eq_error_iff {α β : Type} {x : Run α} {f : α → β} {e : Stop} : x.map f = .error e ↔ x = .error e := by
  cases x <;> simp

/-- A sequence whose rest answers stops exactly where its first part does. -/
theorem bind_eq_error_iff {α β : Type} {x : Run α} {f : α → Run β} {e : Stop} (hf : ∀ a, x = .ok a → ∃ b, f a = .ok b) :
    (x >>= f) = .error e ↔ x = .error e := by
  cases x with
  | error e' => simp
  | ok a =>
    obtain ⟨b, hb⟩ := hf a rfl
    simp [hb]

theorem toOutcome_eq_fault_iff {x : Run State} {f : Fault} : toOutcome x = .fault f ↔ x = .error (.fault f) := by
  cases x with
  | ok s => simp
  | error e => cases e <;> simp [toOutcome]

/-! ### Bus accesses -/

/-- With a program bank, a bus read stops exactly when it is a PPUDATA read of a pattern address whose bank is not there. -/
theorem busRead_stops_iff {s : State} (h : 1 ≤ s.cart.prgBanks) (a : Word) :
    busRead a s = .error (.fault .cartOffsetOutOfRange) ↔
      locate s.cart a = .port .data ∧ s.ppu.v.toNat % 16384 ≤ 0x1FFF ∧ s.cart.bankMissing := by
  rw [busRead_locate]
  cases hl : locate s.cart a with
  | prg off =>
    obtain ⟨_, rfl⟩ := locate_prg hl
    simp [prgByte_ok h]
  | port p =>
    simp only [map_eq_error_iff, Location.port.injEq]
    cases p
    case data =>
      have hv := ppuRead_stops_iff s.cart s.ppu s.ppu.vAddr
      rw [vAddr_toNat] at hv
      simpa [ppuPortRead, readPpuData, bind_eq_error_iff] using hv
    all_goals simp [ppuPortRead]
  | ram i => simp
  | dmaTrigger => simp
  | pad i => simp
  | openBus => simp

/-- A read depends on the registers of the CPU in nothing, so it stops in both states or in neither. -/
theorem busRead_error_congr {s s' : State} (hc : s'.cart = s.cart) (hr : s'.ram = s.ram) (h0 : s'.padSr0 = s.padSr0)
    (h1 : s'.padSr1 = s.padSr1) (hp : s'.ppu = s.ppu) (a : Word) (e : Stop) :
    busRead a s' = .error e ↔ busRead a s = .error e := by
  rw [busRead_congr a hc hr h0 h1 hp, map_eq_error_iff]

/-- Only a PPUDATA read moves `v`. -/
theorem busRead_v {a : Word} {s t : State} {b : Byte} (h : busRead a s = .ok (b, t)) (ha : locate s.cart a ≠ .port .data) :
    t.ppu.v = s.ppu.v := by
  rw [busRead_locate] at h
  split at h
  case h_1 =>
    obtain ⟨x, _, hx⟩ := map_eq_ok h
    cases hx; rfl
  case h_3 p hl =>
    obtain ⟨⟨x, q⟩, hq, hx⟩ := map_eq_ok h
    cases hx
    cases p
    case data => exact absurd hl ha
    all_goals cases hq; rfl
  case h_5 i _ =>
    cases h
    unfold State.setPadSr
    split <;> rfl
  all_goals cases h; rfl

/-- The PPUDATA port is the last of every eight addresses. -/
theorem locate_data {c : Cart} {a : Word} (h : locate c a = .port .data) : a.toNat % 8 = 7 := by
  have hmask : (a &&& 7).toNat = a.toNat % 8 := toNat_and_lowMask a _ 3 rfl
  have hp : portOf a = .data := by
    unfold locate at h
    repeat' split at h
    all_goals simp_all
  unfold portOf at hp
  split at hp <;> simp_all
  omega

/-- The two bytes of a jump pointer are not both at the PPUDATA port (R142). -/
theorem pointerHigh_mod (w : Word) (h : w.toNat % 8 = 7) : (pointerHigh w).toNat % 8 = 0 := by
  unfold pointerHigh
  split
  · have := Nat.and_two_pow_sub_one_eq_mod (w &&& 0xFF00).toNat 3
    rw [← this]
    simp [BitVec.toNat_and, Nat.and_assoc]
  · rw [BitVec.toNat_add]
    simp
    omega

/-! ### Instructions -/

/-- With a program bank, a jump pointer stops exactly where the read of one of its bytes does. -/
theorem readPair_pointer_stops_iff {s : State} (h : 1 ≤ s.cart.prgBanks) (w : Word) :
    readPair w (pointerHigh w) s = .error (.fault .cartOffsetOutOfRange) ↔
      busRead w s = .error (.fault .cartOffsetOutOfRange) ∨
      busRead (pointerHigh w) s = .error (.fault .cartOffsetOutOfRange) := by
  unfold readPair
  cases hr : busRead w s with
  | error e =>
    obtain rfl := busRead_stops w s e hr
    simp
  | ok r =>
    obtain ⟨b, t⟩ := r
    have hc := busRead_cart hr
    have hsecond : busRead (pointerHigh w) t = .error (.fault .cartOffsetOutOfRange) ↔
        busRead (pointerHigh w) s = .error (.fault .cartOffsetOutOfRange) := by
      rw [busRead_stops_iff (hc ▸ h), busRead_stops_iff h, hc]
      by_cases hd : locate s.cart w = .port .data
      · have hmod := pointerHigh_mod w (locate_data hd)
        have hn : locate s.cart (pointerHigh w) ≠ .port .data := fun hl => by
          have := locate_data hl
          omega
        simp [hn]
      · rw [busRead_v hr hd]
    simpa [bind_eq_error_iff] using hsecond

/-- An operand in memory is one bus read. -/
theorem readOperand_stops_iff (o : Operand) (s : State) (e : Stop) :
    readOperand o s = .error e ↔ ∃ w ∈ operandReads o s, busRead w s = .error e := by
  cases o with
  | imm b => simp [readOperand, operandReads]
  | mem m =>
    simp only [readOperand, resolve_eq, Run.ok_bind, fetchOperand, operandReads, List.mem_singleton, exists_eq_left]
    rw [bind_eq_error_iff (fun _ _ => ⟨_, rfl⟩), bind_eq_error_iff (fun _ _ => ⟨_, rfl⟩)]
    exact busRead_error_congr (s := s) (s' := s.setAddrAbs (addrOf m s).1) rfl rfl rfl rfl rfl _ e

theorem readInstr_stops_iff (op : Byte) (o : Operand) (asks : Bool) (f : Byte → State → State) (s : State) (e : Stop) :
    readInstr op o asks f s = .error e ↔ ∃ w ∈ operandReads o s, busRead w s = .error e := by
  rw [← readOperand_stops_iff, readInstr, bind_eq_error_iff (fun _ _ => ⟨_, rfl⟩), readOperand_setCycles, map_eq_error_iff]

/-- The write of a read-modify-write never stops, so the instruction stops where its read does. -/
theorem rmwInstr_stops_iff {s : State} (h : 1 ≤ s.cart.prgBanks) (op : Byte) (m : Addr) (f : Byte → Byte → Byte × Byte) (e : Stop) :
    rmwInstr op m f s = .error e ↔ busRead (addrOf m s).1 s = .error e := by
  have hiff := readOperand_stops_iff (.mem m) s e
  simp only [operandReads, List.mem_singleton, exists_eq_left] at hiff
  cases hr : readOperand (.mem m) s with
  | ok r =>
    obtain ⟨b, cross, t⟩ := r
    obtain ⟨u, hu⟩ := busWrite_ok (s := (t.setCycles (baseCycles op)).setP (f b s.p).2)
      (by simpa [readOperand_cart hr] using h) (addrOf m s).1 (f b s.p).1
    rw [rmwInstr_eq hr, hu, ← hiff, hr]
    simp
  | error e' =>
    have hb : busRead (addrOf m s).1 s = .error e' := by
      simpa [operandReads] using (readOperand_stops_iff (.mem m) s e').1 hr
    have hb' : busRead (addrOf m s).1 ((s.setCycles (baseCycles op)).setAddrAbs (addrOf m s).1) = .error e' :=
      (busRead_error_congr (s := s) (s' := (s.setCycles (baseCycles op)).setAddrAbs (addrOf m s).1)
        rfl rfl rfl rfl rfl _ _).2 hb
    simp [rmwInstr, resolve_eq, addrOf_setCycles, fetchOperand, hb, hb']

/-- With a program bank, an instruction stops exactly where the read of its operand or jump pointer does. -/
theorem exec_stops_iff {s : State} (h : 1 ≤ s.cart.prgBanks) (i : Instr) :
    exec i s = .fault .cartOffsetOutOfRange ↔
      ∃ w ∈ readFrom i s, busRead w s = .error (.fault .cartOffsetOutOfRange) := by
  cases exec_busShape i s with
  | read op o asks f meaning registers reads =>
    rw [meaning, reads, toOutcome_eq_fault_iff, readInstr_stops_iff]
  | store op m r meaning reads =>
    obtain ⟨t, ht⟩ := busWrite_ok (s := (s.setCycles (baseCycles op)).setAddrAbs (addrOf m s).1) h (addrOf m s).1
      (r ((s.setCycles (baseCycles op)).setAddrAbs (addrOf m s).1))
    simp [meaning, reads, storeInstr_eq, ht]
  | modify op m f meaning reads =>
    rw [meaning, reads, toOutcome_eq_fault_iff, rmwInstr_stops_iff h]
    simp
  | pointer w instr =>
    subst instr
    have hj : ∀ u, jumpTarget (.ind w) u = readPair w (pointerHigh w) u := fun _ => rfl
    rw [exec, execJmp, toOutcome_eq_fault_iff, bind_eq_error_iff (fun _ _ => ⟨_, rfl⟩), hj, readPair_setCycles,
      map_eq_error_iff, readPair_pointer_stops_iff h]
    simp [readFrom]
  | handler instr =>
    subst instr
    rw [exec, execBrk, enterBrk_eq (by exact h)]
    simp [readFrom, readMode]
  | quiet t meaning change reads => simp [meaning, reads]

/-- R183: where no cartridge access can be out of range, every instruction answers. -/
theorem exec_inRange {s : State} (h : s.cart.inRange) (i : Instr) : ∃ t, exec i s = .next t := by
  cases he : exec i s with
  | next t => exact ⟨t, rfl⟩
  | fault r =>
    obtain ⟨w, _, hw⟩ := (exec_stops_iff h.1 i).1 he
    obtain ⟨b, t, hb⟩ := busRead_inRange h w
    simp [hb] at hw
  | refused r => exact absurd he (exec_not_refused i s r)

/-! ### The step -/

/-- A cartridge that can never stop the machine stays one, whatever an access does to its register. -/
theorem CartFrame.neverFaults {c c' : Cart} (h : CartFrame c c') (hc : c.neverFaults) : c'.neverFaults := by
  obtain ⟨hprg, hkind⟩ := hc
  have hp : c'.prgBanks = c.prgBanks := by rw [h.size]
  have hb : c'.chrBanks = c.chrBanks := by rw [h.size]
  exact ⟨hp ▸ hprg, hkind.imp h.nrom fun h4 => hb ▸ h4⟩

theorem fetchByte_inRange {s : State} (h : s.cart.inRange) : ∃ b t, fetchByte s = .ok (b, t) := by
  obtain ⟨b, t, hb⟩ := busRead_inRange h s.pc
  exact ⟨b, t.setPc (t.pc + 1), by rw [fetchByte, hb]; rfl⟩

theorem fetchByte_cart {s t : State} {b : Byte} (h : fetchByte s = .ok (b, t)) : t.cart = s.cart := by
  obtain ⟨⟨b', u⟩, h1, h2⟩ := Run.bind_ok h
  cases h2
  exact (show u.cart = s.cart from busRead_cart h1)

theorem fetchForm_inRange {s : State} (h : s.cart.inRange) (form : Form) : ∃ i t, fetchForm form s = .ok (i, t) := by
  cases form with
  | implied i => exact ⟨_, _, rfl⟩
  | padded i => exact ⟨_, _, rfl⟩
  | byte f =>
    obtain ⟨b, t, hb⟩ := fetchByte_inRange h
    exact ⟨f b, t, by rw [fetchForm, hb]; rfl⟩
  | word f =>
    obtain ⟨lo, t, hlo⟩ := fetchByte_inRange h
    obtain ⟨hi, u, hhi⟩ := fetchByte_inRange (s := t) (by rw [fetchByte_cart hlo]; exact h)
    exact ⟨f (wordOf lo hi), u, by simp only [fetchForm, hlo, hhi, Run.ok_bind]⟩

/-- A fetch reads up to three bytes, each of which answers. -/
theorem fetchInstr_inRange {s : State} (h : s.cart.inRange) : ∃ i t, fetchInstr s = .ok (i, t) := by
  obtain ⟨op, t, hop⟩ := fetchByte_inRange h
  obtain ⟨i, u, hi⟩ := fetchForm_inRange (s := t.setOpcode op) (by rw [State.setOpcode_cart, fetchByte_cart hop]; exact h)
    (opcodeRow op).form
  exact ⟨i, u, by simp only [fetchInstr, hop, hi, Run.ok_bind]⟩

section
variable {s : State}

/-- A dispatch fetches under the cartridge as it is, and so executes under one that never stops the machine. -/
theorem dispatch_answers (h : s.cart.neverFaults) : ∃ t, dispatch s = .ok t := by
  obtain ⟨i, u, hf⟩ := fetchInstr_inRange h.inRange
  obtain ⟨t, ht⟩ := exec_inRange ((fetchInstr_busFrame hf).cartFrame.neverFaults h).inRange i
  exact ⟨t, by simp only [dispatch, hf, ht, Run.ok_bind, ofOutcome]⟩

theorem cpuClock_answers (h : s.cart.neverFaults) : ∃ t, cpuClock s = .ok t := by
  by_cases hc : s.cycles = 0
  · obtain ⟨t, ht⟩ := dispatch_answers h
    exact ⟨t.countDown, by rw [cpuClock, dispatchIfDue, if_pos hc, ht]; rfl⟩
  · exact ⟨_, cpuClock_countdown hc⟩

theorem dmaStep_answers (h : s.cart.neverFaults) : ∃ t, dmaStep s = .ok t := by
  unfold dmaStep
  split
  · exact ⟨_, rfl⟩
  · split
    · obtain ⟨b, u, hb⟩ := busRead_inRange h.inRange s.dma.source
      exact ⟨_, by rw [hb, Run.ok_bind]⟩
    · exact ⟨_, rfl⟩

theorem slotPart_answers (h : s.cart.neverFaults) : ∃ t, slotPart s = .ok t := by
  unfold slotPart
  split
  · split
    · exact dmaStep_answers h
    · exact cpuClock_answers h
  · exact ⟨s, rfl⟩

theorem nmiPart_answers (h : s.cart.neverFaults) : ∃ t, nmiPart s = .ok t := by
  unfold nmiPart
  split
  · exact ⟨_, cpuNmi_eq (by exact h.1)⟩
  · exact ⟨s, rfl⟩

theorem scheduledIrq_answers (h : s.cart.neverFaults) : ∃ t, scheduledIrq s = .ok t := by
  unfold scheduledIrq
  split
  · cases hi : s.flag .I with
    | true => exact ⟨s, by rw [cpuIrq, if_pos hi]⟩
    | false => exact ⟨_, cpuIrq_eq h.1 hi⟩
  · exact ⟨s, rfl⟩

/-- Each of the four parts of a step answers, and leaves the next one a cartridge that never stops the machine. -/
theorem step_answers (h : s.cart.neverFaults) : ∃ t, step s = .next t := by
  obtain ⟨s1, h1⟩ := scheduledIrq_answers h
  have hc1 := (scheduledIrq_busFrame h1).cartFrame.neverFaults h
  obtain ⟨q, hq⟩ := ppuClock_inRange hc1.inRange s1.ppu
  obtain ⟨s2, h2⟩ := slotPart_answers (s := s1.setPpu q) hc1
  obtain ⟨s3, h3⟩ := nmiPart_answers ((slotPart_cartFrame h2).neverFaults hc1)
  exact ⟨s3.setMaster (s3.master + 1), by
    simp only [step, masterStep, h1, Run.ok_bind, busClock, ppuPart, hq, h2, h3, toOutcome_ok]⟩

end

end Sys2Proof.Machine
end

section
/-! Proofs, part 9: which accesses can change a device (20_memory.md R76, R86, R114, 40_dispatch.md R179). -/

namespace Sys2Proof.Machine

open Sys2Proof.Claims

theorem locate_pad {c : Cart} {a : Word} {i : Fin 2} (h : locate c a = .pad i) : a = if i = 0 then 0x4016 else 0x4017 := by
  unfold locate at h
  repeat' split at h
  all_goals cases h
  all_goals assumption

theorem locate_dmaTrigger {c : Cart} {a : Word} (h : locate c a = .dmaTrigger) : a = 0x4014 := by
  unfold locate at h
  repeat' split at h
  all_goals cases h
  all_goals assumption

/-- `t` is `s` after bus traffic whose stores are among `stores` and whose reads of devices are among `reads`: a device that none of
them addresses is as it was. -/
structure DevicesKept (stores reads : List Word) (s t : State) : Prop where
  banks : t.cart.prgBanks = s.cart.prgBanks
  ppu : (∀ w ∈ stores ++ reads, ∀ p, locate s.cart w ≠ .port p) → t.ppu = s.ppu
  padSr0 : 0x4016 ∉ stores ++ reads → t.padSr0 = s.padSr0
  padSr1 : 0x4017 ∉ stores ++ reads → t.padSr1 = s.padSr1
  dma : 0x4014 ∉ stores → t.dma = s.dma
  prg : (∀ w ∈ stores, w.toNat < 0x8000) → t.cart.mapper = s.cart.mapper ∧ t.cart.prg = s.cart.prg

section
variable {stores reads : List Word} {s t u : State}

theorem DevicesKept.refl (s : State) : DevicesKept stores reads s s :=
  ⟨rfl, fun _ => rfl, fun _ => rfl, fun _ => rfl, fun _ => rfl, fun _ => ⟨rfl, rfl⟩⟩

theorem DevicesKept.trans (h : DevicesKept stores reads s t) (h' : DevicesKept stores reads t u) :
    DevicesKept stores reads s u where
  banks := h'.banks.trans h.banks
  ppu := fun hn => (h'.ppu fun w hw p => locate_congr h.banks w ▸ hn w hw p).trans (h.ppu hn)
  padSr0 := fun hn => (h'.padSr0 hn).trans (h.padSr0 hn)
  padSr1 := fun hn => (h'.padSr1 hn).trans (h.padSr1 hn)
  dma := fun hn => (h'.dma hn).trans (h.dma hn)
  prg := fun hn => ⟨(h'.prg hn).1.trans (h.prg hn).1, (h'.prg hn).2.trans (h.prg hn).2⟩

/-- RAM and the registers of the CPU are no device. -/
theorem LocalChange.devices (h : LocalChange s t) : DevicesKept stores reads s t := by
  rw [h]
  exact ⟨rfl, fun _ => rfl, fun _ => rfl, fun _ => rfl, fun _ => rfl, fun _ => ⟨rfl, rfl⟩⟩

/-- A controller's register belongs to its address. -/
theorem setPadSr_devices (i : Fin 2) (v : Byte) (ha : (if i = 0 then 0x4016 else 0x4017) ∈ stores ++ reads) :
    DevicesKept stores reads s (s.setPadSr i v) := by
  unfold State.setPadSr
  split <;> rename_i hi
  · rw [if_pos hi] at ha
    exact ⟨rfl, fun _ => rfl, fun hn => absurd ha hn, fun _ => rfl, fun _ => rfl, fun _ => ⟨rfl, rfl⟩⟩
  · rw [if_neg hi] at ha
    exact ⟨rfl, fun _ => rfl, fun _ => rfl, fun hn => absurd ha hn, fun _ => rfl, fun _ => ⟨rfl, rfl⟩⟩

/-- A read changes the device it addresses at most: the PPU at a port, a controller at its address. -/
theorem busRead_devices {a : Word} {b : Byte} (h : busRead a s = .ok (b, t)) (ha : a ∈ reads) :
    DevicesKept stores reads s t := by
  have ha' : a ∈ stores ++ reads := List.mem_append_right _ ha
  rw [busRead_locate] at h
  cases hl : locate s.cart a with
  | prg off =>
    rw [hl] at h
    obtain ⟨x, _, hx⟩ := map_eq_ok h
    cases hx
    exact DevicesKept.refl s
  | port p =>
    rw [hl] at h
    obtain ⟨x, _, hx⟩ := map_eq_ok h
    cases hx
    exact ⟨rfl, fun hn => absurd hl (hn a ha' p), fun _ => rfl, fun _ => rfl, fun _ => rfl, fun _ => ⟨rfl, rfl⟩⟩
  | pad i =>
    rw [hl] at h
    cases h
    exact setPadSr_devices i _ (locate_pad hl ▸ ha')
  | ram i => rw [hl] at h; cases h; exact DevicesKept.refl s
  | dmaTrigger => rw [hl] at h; cases h; exact DevicesKept.refl s
  | openBus => rw [hl] at h; cases h; exact DevicesKept.refl s

/-- A write changes the device it addresses at most; a port write may change CHR, and only a write of PRG changes PRG or the mapper. -/
theorem busWrite_devices {a : Word} {v : Byte} (h : busWrite a v s = .ok t) (ha : a ∈ stores) :
    DevicesKept stores reads s t := by
  have ha' : a ∈ stores ++ reads := List.mem_append_left _ ha
  have hbanks : t.cart.prgBanks = s.cart.prgBanks := by rw [(busWrite_effect h).cart]
  rw [busWrite_locate] at h
  cases hl : locate s.cart a with
  | prg off =>
    rw [hl] at h
    have hstore : ∃ c, t = s.setCart c := by
      simp only at h
      split at h
      · obtain ⟨c, _, hc⟩ := map_eq_ok h
        exact ⟨c, hc.symm⟩
      · cases h; exact ⟨_, rfl⟩
    obtain ⟨c, rfl⟩ := hstore
    have hrange := (locate_prg hl).1
    exact ⟨hbanks, fun _ => rfl, fun _ => rfl, fun _ => rfl, fun _ => rfl, fun hn => absurd (hn a ha) (by omega)⟩
  | port p =>
    rw [hl] at h
    obtain ⟨⟨c, q⟩, hw, hx⟩ := map_eq_ok h
    cases hx
    obtain ⟨_, ⟨chr, rfl, _⟩, _⟩ := ppuPortWrite_effect hw
    exact ⟨rfl, fun hn => absurd hl (hn a ha' p), fun _ => rfl, fun _ => rfl, fun _ => rfl, fun _ => ⟨rfl, rfl⟩⟩
  | dmaTrigger =>
    rw [hl] at h
    cases h
    exact ⟨rfl, fun _ => rfl, fun _ => rfl, fun _ => rfl, fun hn => absurd (locate_dmaTrigger hl ▸ ha) hn, fun _ => ⟨rfl, rfl⟩⟩
  | pad i =>
    rw [hl] at h
    cases h
    exact setPadSr_devices i _ (locate_pad hl ▸ ha')
  | ram i => rw [hl] at h; cases h; exact LocalChange.devices rfl
  | openBus => rw [hl] at h; cases h; exact DevicesKept.refl s

theorem readOperand_devices {o : Operand} {b : Byte} {cross : Bool} (h : readOperand o s = .ok (b, cross, t))
    (ho : ∀ w ∈ operandReads o s, w ∈ reads) : DevicesKept stores reads s t := by
  cases o with
  | imm b' => cases h; exact LocalChange.devices rfl
  | mem m =>
    simp only [readOperand, resolve_eq, Run.ok_bind, fetchOperand] at h
    obtain ⟨⟨b', u⟩, hf, h⟩ := Run.bind_ok h
    obtain ⟨⟨b'', u'⟩, hb, hf⟩ := Run.bind_ok hf
    cases h
    cases hf
    have hread := busRead_devices (stores := stores) hb (ho _ (List.mem_singleton.2 rfl))
    exact (LocalChange.devices (t := s.setAddrAbs (addrOf m s).1) rfl).trans (hread.trans (LocalChange.devices rfl))

/-- The two reads of a jump pointer. -/
theorem readPair_devices {lo hi w : Word} (h : readPair lo hi s = .ok (w, t)) (hlo : lo ∈ reads) (hhi : hi ∈ reads) :
    DevicesKept stores reads s t := by
  obtain ⟨⟨b, u⟩, h1, h⟩ := Run.bind_ok h
  obtain ⟨⟨b', u'⟩, h2, h⟩ := Run.bind_ok h
  cases h
  exact (busRead_devices h1 hlo).trans (busRead_devices h2 hhi)

/-- A read in the mapper's range changes nothing. -/
theorem busRead_prg_state {a : Word} {b : Byte} (h : busRead a s = .ok (b, t)) (ha : 0x8000 ≤ a.toNat) : t = s := by
  rw [busRead_locate, locate_of_prg _ ha] at h
  obtain ⟨x, _, hx⟩ := map_eq_ok h
  cases hx
  rfl

/-- BRK's entry pushes to RAM and reads its vector from PRG: no device is addressed. -/
theorem enterBrk_local (h : enterBrk s = .ok t) : LocalChange s t := by
  unfold enterBrk at h
  simp only [enterHandler, pushWord_eq, push_eq, Run.ok_bind] at h
  obtain ⟨⟨w, u⟩, hr, h⟩ := Run.bind_ok h
  cases h
  obtain ⟨⟨b, u1⟩, h1, hr⟩ := Run.bind_ok hr
  obtain ⟨⟨b', u2⟩, h2, hr⟩ := Run.bind_ok hr
  cases hr
  obtain rfl := busRead_prg_state h1 (by decide)
  obtain rfl := busRead_prg_state h2 (by decide)
  rfl

/-- Every instruction changes only the devices its own accesses address. -/
theorem exec_devices {i : Instr} (h : exec i s = .next t) : DevicesKept (storedTo i s) (readFrom i s) s t := by
  cases exec_busShape i s with
  | read op o asks f meaning registers reads =>
    obtain ⟨b, cross, u, hr, rfl⟩ := readInstr_inv (toOutcome_eq_next (meaning ▸ h))
    have hread := readOperand_devices (stores := storedTo i s) (reads := readFrom i s) hr (reads ▸ fun _ hw => hw)
    have hcycles : DevicesKept (storedTo i s) (readFrom i s) u (u.setCycles (baseCycles op)) := LocalChange.devices rfl
    exact ((hread.trans hcycles).trans (registers b _).localChange.devices).trans (LocalChange.devices rfl)
  | store op m r meaning reads stores =>
    have hw := toOutcome_eq_next (meaning ▸ h)
    rw [storeInstr_eq] at hw
    exact DevicesKept.trans (t := (s.setCycles (baseCycles op)).setAddrAbs (addrOf m s).1) (LocalChange.devices rfl)
      (busWrite_devices hw (stores ▸ List.mem_singleton.2 rfl))
  | modify op m f meaning reads stores =>
    obtain ⟨b, cross, u, hr, hw⟩ := rmwInstr_inv (toOutcome_eq_next (meaning ▸ h))
    have hread := readOperand_devices (stores := storedTo i s) (reads := readFrom i s) hr (reads ▸ fun _ hw => hw)
    have hregs : DevicesKept (storedTo i s) (readFrom i s) u ((u.setCycles (baseCycles op)).setP (f b s.p).2) :=
      LocalChange.devices rfl
    exact (hread.trans hregs).trans (busWrite_devices hw (stores ▸ List.mem_singleton.2 rfl))
  | pointer w instr =>
    subst instr
    obtain ⟨⟨w', u⟩, hj, hx⟩ := Run.bind_ok (toOutcome_eq_next h)
    cases hx
    have hpair := readPair_devices (stores := storedTo (.jmp (.ind w)) s) (reads := readFrom (.jmp (.ind w)) s) (hi := pointerHigh w)
      hj (by simp [readFrom]) (by simp [readFrom])
    exact (LocalChange.devices (t := s.setCycles (baseCycles (opcodeOf (.jmp (.ind w))))) rfl).trans
      (hpair.trans (LocalChange.devices rfl))
  | handler instr =>
    subst instr
    exact DevicesKept.trans (t := (s.setCycles (baseCycles (opcodeOf .brk))).setAddrAbs (s.pc - 1)) (LocalChange.devices rfl)
      (enterBrk_local (toOutcome_eq_next h)).devices
  | quiet u meaning change =>
    cases meaning.symm.trans h
    exact change.devices

end

end Sys2Proof.Machine
end

section
/-! Proofs, part 10: the bus by region and the controllers' protocol (20_memory.md R80 to R88, R112, R114). -/

namespace Sys2Proof.Machine

open Sys2Proof.Claims

/-! ### Regions -/

/-- RAM is mirrored every 2048 bytes (R82). -/
theorem ramIndex_eq (a : Word) : ramIndex a = a.toNat % 2048 := toNat_and_lowMask a _ 11 rfl

/-- The offset of a mapper-range address, as a remainder (R112). -/
theorem prgOffset_eq (c : Cart) (a : Word) : prgOffset c a = prgIndex c a := by
  unfold prgOffset prgIndex
  split
  · exact toNat_and_lowMask a _ 15 rfl
  · exact toNat_and_lowMask a _ 14 rfl

/-- The ports are mirrored every 8 bytes, in the order of R90 (R83). -/
theorem ports_getElem_portOf (a : Word) : ports[a.toNat % 8]? = some (portOf a) := by
  have hmask : (a &&& 7).toNat = a.toNat % 8 := toNat_and_lowMask a _ 3 rfl
  have hlt : a.toNat % 8 < 8 := Nat.mod_lt _ (by decide)
  unfold portOf
  rw [hmask]
  generalize a.toNat % 8 = n at hlt
  revert n
  decide

theorem locate_of_port (c : Cart) {a : Word} (hlo : 0x2000 ≤ a.toNat) (hhi : a.toNat ≤ 0x3FFF) {p : PpuPort}
    (hp : ports[a.toNat % 8]? = some p) : locate c a = .port p := by
  rw [ports_getElem_portOf, Option.some.injEq] at hp
  rw [locate, if_neg (by omega), if_neg (by omega), if_pos hhi, hp]

theorem locate_of_openBus (c : Cart) {a : Word} (hlo : 0x4000 ≤ a.toNat) (hhi : a.toNat ≤ 0x7FFF) (h4 : a ≠ 0x4014)
    (h6 : a ≠ 0x4016) (h7 : a ≠ 0x4017) : locate c a = .openBus := by
  rw [locate, if_neg (by omega), if_neg (by omega), if_neg (by omega), if_neg h4, if_neg h6, if_neg h7]

/-- A bus read of a port is the port's read (R83). -/
theorem busRead_port {a : Word} {s : State} {p : PpuPort} (hl : locate s.cart a = .port p) {b : Byte} {q : Ppu}
    (h : ppuPortRead s.cart p s.ppu = .ok (b, q)) : busRead a s = .ok (b, s.setPpu q) := by
  simp only [busRead_locate, hl, h, map_ok]

/-- A bus write of a port is the port's write (R83). -/
theorem busWrite_port {a : Word} {s : State} {p : PpuPort} (hl : locate s.cart a = .port p) {v : Byte} {c : Cart} {q : Ppu}
    (h : ppuPortWrite s.cart p s.ppu v = .ok (c, q)) : busWrite a v s = .ok ((s.setCart c).setPpu q) := by
  simp only [busWrite_locate, hl, h, map_ok]

/-- A bus write of PRG is stored under NROM (R112, D19). -/
theorem busWrite_nrom {a : Word} {s : State} (ha : 0x8000 ≤ a.toNat) (hb : 1 ≤ s.cart.prgBanks) (hm : s.cart.mapper = .nrom)
    (v : Byte) : busWrite a v s = .ok (s.setCart { s.cart with prg := s.cart.prg.write (prgIndex s.cart a) v }) := by
  have hstore := prgStore_ok hb a v
  rw [prgOffset_eq] at hstore
  simp only [busWrite_locate, locate_of_prg _ ha, hm, prgOffset_eq, hstore, map_ok]

/-- A bus write of PRG selects a CHR bank under CNROM, by its low two bits (R114). -/
theorem busWrite_cnrom {a : Word} {s : State} (ha : 0x8000 ≤ a.toNat) {bank : BitVec 2} (hm : s.cart.mapper = .cnrom bank)
    (v : Byte) : busWrite a v s = .ok (s.setCart { s.cart with mapper := .cnrom (BitVec.ofNat 2 (v.toNat % 4)) }) := by
  have hbits : v.extractLsb' 0 2 = BitVec.ofNat 2 (v.toNat % 4) := by
    apply BitVec.eq_of_toNat_eq
    simp
  simp only [busWrite_locate, locate_of_prg _ ha, hm, hbits]

/-! ### The controllers -/

/-- The address of a controller (R84). -/
def padAddr (i : Fin 2) : Word := if i = 0 then 0x4016 else 0x4017

theorem locate_padAddr (c : Cart) (i : Fin 2) : locate c (padAddr i) = .pad i := by
  match i with
  | 0 => rfl
  | 1 => rfl

theorem padSr_setPadSr (s : State) (i : Fin 2) (v : Byte) : (s.setPadSr i v).padSr i = v := by
  unfold State.setPadSr State.padSr
  split <;> rfl

/-- A controller read gives bit 7 of the register and shifts it left (R84). -/
theorem busRead_padAddr (i : Fin 2) (s : State) :
    busRead (padAddr i) s = .ok (padBit (s.padSr i), s.setPadSr i (s.padSr i <<< 1)) := by
  rw [busRead_locate, locate_padAddr]
  rfl

/-- A controller write latches the host's snapshot, whatever is written (R85). -/
theorem busWrite_padAddr (i : Fin 2) (v : Byte) (s : State) :
    busWrite (padAddr i) v s = .ok (s.setPadSr i (Config.pad i s.resets s.master)) := by
  rw [busWrite_locate, locate_padAddr]
  rfl

/-- Any number of reads of a controller give its register's bits, from bit 7 down. -/
theorem readMany_padAddr (i : Fin 2) (n : Nat) (s : State) :
    ∃ u, readMany (padAddr i) n s = .ok ((List.range n).map (fun k => padBit (s.padSr i <<< k)), u) := by
  induction n generalizing s with
  | zero => exact ⟨s, rfl⟩
  | succ n ih =>
    obtain ⟨u, hu⟩ := ih (s.setPadSr i (s.padSr i <<< 1))
    refine ⟨u, ?_⟩
    have hshift : ∀ k, s.padSr i <<< 1 <<< k = s.padSr i <<< (k + 1) := fun k => by
      rw [← BitVec.shiftLeft_add, Nat.add_comm]
    simp only [readMany, busRead_padAddr, Run.ok_bind, hu, padSr_setPadSr, List.range_succ_eq_map, List.map_cons, List.map_map,
      Function.comp_def, hshift, BitVec.shiftLeft_zero]

/-- Bit 7 after `k` shifts is bit `7 - k`, and 0 after eight. -/
theorem padBit_shiftLeft (v : Byte) (k : Nat) :
    padBit (v <<< k) = if k < 8 ∧ v.getLsbD (7 - k) then 0x01 else 0x00 := by
  by_cases hk : k < 8
  · have h7 : ¬ 7 < k := by omega
    simp only [padBit, BitVec.getLsbD_shiftLeft, hk, h7, decide_false, Bool.not_false, Bool.true_and, true_and, show 7 < 8 by decide,
      decide_true]
  · have h7 : 7 < k := by omega
    simp only [padBit, BitVec.getLsbD_shiftLeft, hk, h7, decide_true, Bool.not_true, Bool.and_false, Bool.false_and, false_and,
      Bool.false_eq_true]

end Sys2Proof.Machine
end

section
/-! Proofs, part 11: the PPU's ports bit by bit, and its memory by region (20_memory.md R91 to R110, R113, R115). -/

namespace Sys2Proof.Machine

open Sys2Proof.Claims

/-! ### Loopy registers, bit by bit -/

/-- The field each bit of a loopy register stands in (R34). -/
theorem getLsbD_loopy (fy : BitVec 3) (ny nx : Bool) (cy cx : BitVec 5) (i : Nat) :
    (loopy fy ny nx cy cx).getLsbD i =
      if i < 5 then cx.getLsbD i else if i < 10 then cy.getLsbD (i - 5) else if i = 10 then nx else if i = 11 then ny
      else fy.getLsbD (i - 12) := by
  simp only [loopy, BitVec.getLsbD_append, BitVec.getLsbD_ofBool]
  by_cases h5 : i < 5
  · rw [if_pos h5, if_pos h5]
  by_cases h10 : i < 10
  · rw [if_neg h5, if_neg h5, if_pos h10, if_pos (by omega)]
  by_cases hx : i = 10
  · subst hx; simp
  by_cases hy : i = 11
  · subst hy; simp
  · simp only [h5, h10, hx, hy, if_false, show ¬ i - 5 < 5 by omega, show ¬ i - 5 - 5 < 1 by omega,
      show ¬ i - 5 - 5 - 1 < 1 by omega, show i - 5 - 5 - 1 - 1 = i - 12 by omega]

/-- A loopy register is made of its five fields. -/
theorem loopy_fields (r : BitVec 15) : loopy (fineY r) (nametableY r) (nametableX r) (coarseY r) (coarseX r) = r := by
  apply BitVec.eq_of_getLsbD_eq
  intro i hi
  simp only [getLsbD_loopy, fineY, nametableY, nametableX, coarseY, coarseX, BitVec.getLsbD_extractLsb']
  split_ifs with h5 h10 hx hy
  · simp [h5]
  · simp [show i - 5 < 5 by omega, show 5 + (i - 5) = i by omega]
  · rw [hx]
  · rw [hy]
  · simp [show i - 12 < 3 by omega, show 12 + (i - 12) = i by omega]

theorem getLsbD_withCoarseX (r : BitVec 15) (x : BitVec 5) (i : Nat) :
    (withCoarseX r x).getLsbD i = if i < 5 then x.getLsbD i else r.getLsbD i := by
  conv_rhs => rw [← loopy_fields r]
  simp only [withCoarseX, getLsbD_loopy]
  split_ifs <;> rfl

theorem getLsbD_withCoarseY (r : BitVec 15) (y : BitVec 5) (i : Nat) :
    (withCoarseY r y).getLsbD i = if 5 ≤ i ∧ i < 10 then y.getLsbD (i - 5) else r.getLsbD i := by
  conv_rhs => rw [← loopy_fields r]
  simp only [withCoarseY, getLsbD_loopy]
  grind

theorem getLsbD_withNametableX (r : BitVec 15) (b : Bool) (i : Nat) :
    (withNametableX r b).getLsbD i = if i = 10 then b else r.getLsbD i := by
  conv_rhs => rw [← loopy_fields r]
  simp only [withNametableX, getLsbD_loopy]
  grind

theorem getLsbD_withNametableY (r : BitVec 15) (b : Bool) (i : Nat) :
    (withNametableY r b).getLsbD i = if i = 11 then b else r.getLsbD i := by
  conv_rhs => rw [← loopy_fields r]
  simp only [withNametableY, getLsbD_loopy]
  grind

theorem getLsbD_withFineY (r : BitVec 15) (y : BitVec 3) (i : Nat) :
    (withFineY r y).getLsbD i = if 12 ≤ i then y.getLsbD (i - 12) else r.getLsbD i := by
  conv_rhs => rw [← loopy_fields r]
  simp only [withFineY, getLsbD_loopy]
  grind

/-! ### The bits the port writes give `t` -/

section
variable (q : Ppu) (d : Byte)

/-- PPUCTRL's two nametable bits (R95). -/
theorem getLsbD_writePpuCtrl_t (i : Nat) :
    (writePpuCtrl q d).t.getLsbD i = if i = 10 then d.getLsbD 0 else if i = 11 then d.getLsbD 1 else q.t.getLsbD i := by
  simp only [writePpuCtrl, getLsbD_withNametableY, getLsbD_withNametableX]
  grind

/-- The first PPUSCROLL write gives `t` its coarse X (R99). -/
theorem getLsbD_scrollX (i : Nat) :
    (withCoarseX q.t (d.extractLsb' 3 5)).getLsbD i = if i < 5 then d.getLsbD (i + 3) else q.t.getLsbD i := by
  rw [getLsbD_withCoarseX, BitVec.getLsbD_extractLsb', Nat.add_comm]
  split_ifs with h <;> simp [h]

/-- The second PPUSCROLL write gives `t` its fine and coarse Y (R99). -/
theorem getLsbD_scrollY (i : Nat) :
    (withCoarseY (withFineY q.t (d.extractLsb' 0 3)) (d.extractLsb' 3 5)).getLsbD i =
      if 12 ≤ i ∧ i < 15 then d.getLsbD (i - 12) else if 5 ≤ i ∧ i < 10 then d.getLsbD (i - 2) else q.t.getLsbD i := by
  simp only [getLsbD_withCoarseY, getLsbD_withFineY, BitVec.getLsbD_extractLsb']
  by_cases hy : 5 ≤ i ∧ i < 10
  · simp [hy, show ¬ 12 ≤ i by omega, show i - 5 < 5 by omega, show 3 + (i - 5) = i - 2 by omega]
  by_cases hf : 12 ≤ i
  · by_cases h15 : i < 15
    · simp [hf, h15, hy, show i - 12 < 3 by omega]
    · simp [hf, h15, hy, show ¬ i - 12 < 3 by omega, BitVec.getLsbD_of_ge q.t i (by omega)]
  · simp [hy, hf]

/-- The first PPUADDR write gives `t` its bits 13 to 8 and clears bit 14 (R100). -/
theorem getLsbD_addrHigh (i : Nat) :
    (((d &&& 0x3F).setWidth 15 <<< 8) ||| (q.t &&& 0x00FF)).getLsbD i =
      if i < 8 then q.t.getLsbD i else decide (i < 14) && d.getLsbD (i - 8) := by
  by_cases hi : i < 15
  · have hsix : ∀ j < 15, BitVec.getLsbD (0x3F : Byte) j = decide (j < 6) := by decide
    have height : ∀ j < 15, BitVec.getLsbD (0x00FF : BitVec 15) j = decide (j < 8) := by decide
    simp only [BitVec.getLsbD_or, BitVec.getLsbD_and, BitVec.getLsbD_shiftLeft, BitVec.getLsbD_setWidth, height i hi,
      hsix (i - 8) (by omega)]
    grind
  · rw [BitVec.getLsbD_of_ge _ i (by omega), if_neg (by omega), decide_eq_false (by omega), Bool.false_and]

/-- The second PPUADDR write gives `t` its low byte (R100). -/
theorem getLsbD_addrLow (i : Nat) :
    ((q.t &&& 0x7F00) ||| d.setWidth 15).getLsbD i = if i < 8 then d.getLsbD i else q.t.getLsbD i := by
  by_cases hi : i < 15
  · have hhigh : ∀ j < 15, BitVec.getLsbD (0x7F00 : BitVec 15) j = decide (8 ≤ j) := by decide
    have hd : 8 ≤ i → d.getLsbD i = false := BitVec.getLsbD_of_ge d i
    simp only [BitVec.getLsbD_or, BitVec.getLsbD_and, BitVec.getLsbD_setWidth, hhigh i hi]
    grind
  · rw [BitVec.getLsbD_of_ge _ i (by omega), if_neg (by omega), BitVec.getLsbD_of_ge _ i (by omega)]

end

/-! ### Accesses through `v` -/

/-- An access takes the low 14 bits of its address, and nothing else of it (R105, D31). -/
theorem ppuAddr_congr {a b : Word} (h : a.toNat % 16384 = b.toNat % 16384) : ppuAddr a = ppuAddr b :=
  BitVec.eq_of_toNat_eq (by rw [ppuAddr_toNat, ppuAddr_toNat, h])

/-- `v` as a PPU address, and its low 14 bits as one, are the same to an access. -/
theorem ppuAddr_v (q : Ppu) : ppuAddr (BitVec.ofNat 16 (q.v.toNat % 16384)) = ppuAddr q.vAddr := by
  apply ppuAddr_congr
  rw [vAddr_toNat, BitVec.toNat_ofNat]
  omega

theorem ppuRead_v (c : Cart) (q : Ppu) : ppuRead c q (BitVec.ofNat 16 (q.v.toNat % 16384)) = ppuRead c q q.vAddr := by
  simp only [ppuRead, ppuAddr_v]

theorem ppuWrite_v (c : Cart) (q : Ppu) (d : Byte) :
    ppuWrite c q (BitVec.ofNat 16 (q.v.toNat % 16384)) d = ppuWrite c q q.vAddr d := by
  simp only [ppuWrite, ppuAddr_v]

/-- A write of PPU memory leaves `v` and PPUCTRL as they are. -/
theorem ppuWrite_registers {c c' : Cart} {q q' : Ppu} {a : Word} {d : Byte} (h : ppuWrite c q a d = .ok (c', q')) :
    q'.v = q.v ∧ q'.ctrl = q.ctrl := by
  rcases ppuWrite_cases h with ⟨rfl, _⟩ | ⟨_, rfl | rfl | rfl⟩
  · exact ⟨rfl, rfl⟩
  · unfold Ppu.writePt
    split <;> exact ⟨rfl, rfl⟩
  · unfold Ppu.writeNt
    split <;> exact ⟨rfl, rfl⟩
  · exact ⟨rfl, rfl⟩

/-! ### Nametables and palette -/

/-- The byte a cell of nametable or palette memory holds. -/
def Ppu.readCell (q : Ppu) (cell : Nat × Nat) : Byte :=
  match cell.1 with
  | 0 => q.nt0.read cell.2
  | 1 => q.nt1.read cell.2
  | _ => q.pal.read cell.2

/-- A byte stored in a cell of nametable or palette memory. -/
def Ppu.writeCell (q : Ppu) (cell : Nat × Nat) (d : Byte) : Ppu :=
  match cell.1 with
  | 0 => { q with nt0 := q.nt0.write cell.2 d }
  | 1 => { q with nt1 := q.nt1.write cell.2 d }
  | _ => { q with pal := q.pal.write cell.2 d }

/-- The mask of a palette read; a nametable read has none (R109, D28). -/
def videoMask (q : Ppu) (a : Word) (b : Byte) : Byte :=
  if a.toNat % 16384 ≤ 0x3EFF then b else b &&& (if q.mask.getLsbD 0 then 0x30 else 0x3F)

theorem writeCell_mask (q : Ppu) (x : Nat × Nat) (d : Byte) : (q.writeCell x d).mask = q.mask := by
  unfold Ppu.writeCell
  split <;> rfl

/-- A cell after a store: the byte stored at its own place, and the byte as before elsewhere. -/
theorem readCell_writeCell (q : Ppu) {x y : Nat × Nat} (hx : x.1 ≤ 2) (hy : y.1 ≤ 2) (d : Byte) :
    (q.writeCell x d).readCell y = if y = x then d else q.readCell y := by
  obtain ⟨k, i⟩ := x
  obtain ⟨l, j⟩ := y
  simp only at hx hy
  interval_cases k <;> interval_cases l <;> simp [Ppu.writeCell, Ppu.readCell, Memory.read_write]

section
variable {a : Word}

/-- The nametable of an address by the mirroring (R107). -/
theorem ntSel_ppuAddr (m : Mirroring) (h : a.toNat % 16384 ≤ 0x3EFF) :
    ntSel m (ppuAddr a) = decide ((videoCell m a).1 = 1) := by
  simp only [videoCell, if_pos h]
  cases m <;> simp only [ntSel, BitVec.getLsbD, ppuAddr_toNat, Nat.testBit_eq_decide_div_mod_eq]

theorem ntOffset_ppuAddr (m : Mirroring) (h : a.toNat % 16384 ≤ 0x3EFF) : ntOffset (ppuAddr a) = (videoCell m a).2 := by
  have hmask : ntOffset (ppuAddr a) = (ppuAddr a).toNat % 1024 := toNat_and_lowMask _ _ 10 rfl
  simp only [hmask, ppuAddr_toNat, videoCell, if_pos h]

/-- The palette's aliases: every fourth entry of its second half is the one of its first half (R108). -/
theorem palIdx_ppuAddr (m : Mirroring) (h : ¬ a.toNat % 16384 ≤ 0x3EFF) : palIdx (ppuAddr a) = (videoCell m a).2 := by
  have hmask : (ppuAddr a &&& 0x1F).toNat = (ppuAddr a).toNat % 32 := toNat_and_lowMask _ _ 5 rfl
  simp only [palIdx, hmask, ppuAddr_toNat, videoCell, if_neg h]
  split_ifs <;> omega

theorem videoCell_nametable (m : Mirroring) (h : a.toNat % 16384 ≤ 0x3EFF) :
    (videoCell m a).1 = 0 ∨ (videoCell m a).1 = 1 := by
  simp only [videoCell, if_pos h]
  cases m <;> (simp only; omega)

theorem videoCell_palette (m : Mirroring) (h : ¬ a.toNat % 16384 ≤ 0x3EFF) : (videoCell m a).1 = 2 := by
  simp only [videoCell, if_neg h]

theorem videoCell_table_le (m : Mirroring) (a : Word) : (videoCell m a).1 ≤ 2 := by
  by_cases h : a.toNat % 16384 ≤ 0x3EFF
  · have := videoCell_nametable m h
    omega
  · exact Nat.le_of_eq (videoCell_palette m h)

variable (ha : 0x2000 ≤ a.toNat % 16384)
include ha

/-- A read from 0x2000 up is a read of the cell its address names, under the palette's mask. -/
theorem ppuRead_cell (c : Cart) (q : Ppu) :
    ppuRead c q a = .ok (videoMask q a (q.readCell (videoCell c.mirroring a))) := by
  have hn : ¬ a.toNat % 16384 ≤ 0x1FFF := by omega
  simp only [ppuRead, ppuMapRead, ppuAddr_toNat, if_neg hn, videoMask]
  by_cases h : a.toNat % 16384 ≤ 0x3EFF
  · simp only [if_pos h, ntSel_ppuAddr c.mirroring h, ntOffset_ppuAddr c.mirroring h]
    rcases videoCell_nametable c.mirroring h with h0 | h1
    · simp [Ppu.readCell, h0]
    · simp [Ppu.readCell, h1]
  · simp only [if_neg h, palRead, palIdx_ppuAddr c.mirroring h, Ppu.readCell, videoCell_palette c.mirroring h]
    rfl

/-- A write from 0x2000 up is a store in the cell its address names (R110). -/
theorem ppuWrite_cell (c : Cart) (q : Ppu) (d : Byte) :
    ppuWrite c q a d = .ok (c, q.writeCell (videoCell c.mirroring a) d) := by
  have hn : ¬ a.toNat % 16384 ≤ 0x1FFF := by omega
  simp only [ppuWrite, ppuMapWrite, ppuAddr_toNat, if_neg hn]
  by_cases h : a.toNat % 16384 ≤ 0x3EFF
  · simp only [if_pos h, Ppu.writeNt, ntSel_ppuAddr c.mirroring h, ntOffset_ppuAddr c.mirroring h]
    rcases videoCell_nametable c.mirroring h with h0 | h1
    · simp [Ppu.writeCell, h0]
    · simp [Ppu.writeCell, h1]
  · simp only [if_neg h, palIdx_ppuAddr c.mirroring h, Ppu.writeCell, videoCell_palette c.mirroring h]

end

/-! ### Pattern memory -/

section
variable {c : Cart} {a : Word}

/-- Where the bank is there, a pattern read gives CHR's byte (R113, R115). -/
theorem ppuRead_pattern_inRange (hc : c.inRange) (q : Ppu) (ha : a.toNat ≤ 0x1FFF) :
    ppuRead c q a = .ok (c.chr.read (patternOffset c a.toNat)) := by
  have hmod : a.toNat % 16384 = a.toNat := Nat.mod_eq_of_lt (by omega)
  have hthere : ¬ c.bankMissing := by
    rintro ⟨bank, hm, hb⟩
    have hlt := hc.2
    simp only [hm] at hlt
    omega
  have hlen : patternOffset c a.toNat < c.chrLen := by
    by_contra hbeyond
    exact hthere ((patternOffset_beyond c ha).1 hbeyond)
  rw [ppuRead_pattern c q (by omega), hmod, chrByte, if_pos hlen]

/-- Under NROM a pattern write is stored in CHR (R113, D19). -/
theorem ppuWrite_pattern_nrom (hm : c.mapper = .nrom) (q : Ppu) (d : Byte) (ha : a.toNat ≤ 0x1FFF) :
    ppuWrite c q a d = .ok ({ c with chr := c.chr.write a.toNat d }, q) := by
  have hmod : a.toNat % 16384 = a.toNat := Nat.mod_eq_of_lt (by omega)
  have hlen : a.toNat < c.chrLen := by
    unfold Cart.chrLen
    omega
  simp only [ppuWrite, ppuMapWrite, ppuAddr_toNat, hmod, if_pos ha, hm, chrStore, if_pos hlen, Run.ok_bind]

/-- Under CNROM a pattern write lands in the internal tables (R115, D20). -/
theorem ppuWrite_pattern_cnrom {bank : BitVec 2} (hm : c.mapper = .cnrom bank) (q : Ppu) (d : Byte) (ha : a.toNat ≤ 0x1FFF) :
    ppuWrite c q a d = .ok (c, q.writePt (ppuAddr a) d) := by
  have hmod : a.toNat % 16384 = a.toNat := Nat.mod_eq_of_lt (by omega)
  simp only [ppuWrite, ppuMapWrite, ppuAddr_toNat, hmod, if_pos ha, hm]

/-- The internal pattern tables are 4096 bytes each, the second from 0x1000 (R105). -/
theorem writePt_ppuAddr (q : Ppu) (d : Byte) (ha : a.toNat ≤ 0x1FFF) :
    q.writePt (ppuAddr a) d = if a.toNat < 0x1000 then { q with pt0 := q.pt0.write a.toNat d }
      else { q with pt1 := q.pt1.write (a.toNat - 0x1000) d } := by
  have hmod : a.toNat % 16384 = a.toNat := Nat.mod_eq_of_lt (by omega)
  have hoff : ptOffset (ppuAddr a) = a.toNat % 4096 := by
    rw [← hmod, ← ppuAddr_toNat]
    exact toNat_and_lowMask _ _ 12 rfl
  have hsel : (ppuAddr a).getLsbD 12 = decide (a.toNat / 4096 % 2 = 1) := by
    rw [BitVec.getLsbD, ppuAddr_toNat, hmod, Nat.testBit_eq_decide_div_mod_eq]
  rw [Ppu.writePt, hoff, hsel]
  by_cases hlow : a.toNat < 0x1000
  · rw [if_pos hlow, if_neg (by simp; omega), Nat.mod_eq_of_lt hlow]
  · rw [if_neg hlow, if_pos (by simp; omega), show a.toNat % 4096 = a.toNat - 0x1000 by omega]

end

end Sys2Proof.Machine
end

section
/-! Proofs, part 12: the statements about memory, ports, devices and stops settled. -/

namespace Sys2Proof.Settled

open Sys2Proof.Machine Sys2Proof.Claims

/-- Settles O60: every part of a step answers under such a cartridge, the step leaves one, and no part is ever refused. -/
theorem machineNeverStops : Obligations.MachineNeverStops := by
  refine ⟨fun s h => ?_, fun s r => (masterStep_stops s).not_refused r⟩
  obtain ⟨t, ht⟩ := step_answers h
  exact ⟨t, ht, (step_cartFrame ht).neverFaults h⟩

/-- Settles O33: `busRead_stops_iff` and `exec_stops_iff`; a write is to RAM, a device or a byte within the cartridge. -/
theorem cartridgeStopIsExactly : Obligations.CartridgeStopIsExactly := fun s a h =>
  ⟨busRead_stops_iff h a, busRead_stops a s, busWrite_ok h a, exec_stops_iff h⟩

/-- Settles O28: each of the six shapes of an instruction accesses its own addresses, RAM and PRG alone. -/
theorem deviceFrame : Obligations.DeviceFrame := by
  intro i s t h
  have hd := exec_devices h
  exact ⟨hd.ppu, hd.padSr0, hd.padSr1, hd.dma, hd.prg⟩

/-- Settles O31, region by region, from the location of the address. -/
theorem busReadsByRegion : Obligations.BusReadsByRegion := by
  intro s a
  refine ⟨fun h => ?_, fun hlo hhi p b q hp hr => ?_, fun h => ?_, fun h => ?_, fun hlo hhi h6 h7 => ?_, fun h hb => ?_⟩
  · rw [busRead_locate, locate_of_ram _ h, ramIndex_eq]
  · exact busRead_port (locate_of_port _ hlo hhi hp) hr
  · rw [h]
    exact busRead_padAddr 0 s
  · rw [h]
    exact busRead_padAddr 1 s
  · by_cases h4 : a = 0x4014
    · rw [h4]
      rfl
    · rw [busRead_locate, locate_of_openBus _ hlo hhi h4 h6 h7]
  · rw [busRead_prg hb h, prgOffset_eq]

/-- Settles O32, region by region, from the location of the address. -/
theorem busWritesByRegion : Obligations.BusWritesByRegion := by
  intro s a v
  refine ⟨fun h => ?_, fun hlo hhi p c q hp hw => ?_, fun h => ?_, fun h => ?_, fun h => ?_, fun hlo hhi h4 h6 h7 => ?_,
    fun h hb hm => ?_, fun h bank hm => ?_⟩
  · rw [busWrite_locate, locate_of_ram _ h, ramIndex_eq]
    rfl
  · exact busWrite_port (locate_of_port _ hlo hhi hp) hw
  · rw [h]
    rfl
  · rw [h]
    exact busWrite_padAddr 0 v s
  · rw [h]
    exact busWrite_padAddr 1 v s
  · rw [busWrite_locate, locate_of_openBus _ hlo hhi h4 h6 h7]
  · exact busWrite_nrom h hb hm v
  · exact busWrite_cnrom h hm v

/-- Settles O38: the write latches the snapshot, and each read shifts out one bit of it. -/
theorem controllerShiftsOutSnapshot : Obligations.ControllerShiftsOutSnapshot := by
  intro i a v s n ha
  obtain rfl : a = padAddr i := ha
  obtain ⟨u, hu⟩ := readMany_padAddr i n (s.setPadSr i (Config.pad i s.resets s.master))
  refine ⟨_, u, busWrite_padAddr i v s, ?_⟩
  simp only [hu, padSr_setPadSr, padBit_shiftLeft]

/-- Settles O34, port by port. -/
theorem portReads : Obligations.PortReads := by
  intro c q
  refine ⟨fun p hp => ?_, ⟨setBit q.status vblankBit false, fun i => ?_, rfl⟩, rfl, fun b hb => ?_⟩
  · simp only [List.mem_cons, List.not_mem_nil, or_false] at hp
    rcases hp with rfl | rfl | rfl | rfl | rfl <;> rfl
  · rw [getLsbD_setBit _ (by decide), vblankBit]
    by_cases hi : i = 7 <;> simp [hi]
  · rw [ppuRead_v] at hb
    simp only [ppuPortRead, readPpuData, hb, Run.ok_bind, ppuAddr_toNat, vAddr_toNat]
    rfl

/-- Settles O35, port by port; the bits of `t` are those of the lemmas on loopy registers. -/
theorem portWrites : Obligations.PortWrites := by
  intro c q d
  refine ⟨⟨_, getLsbD_writePpuCtrl_t q d, rfl⟩, rfl, rfl, rfl, rfl, fun hw => ?_, fun hw => ?_, fun hw => ?_, fun hw => ?_,
    fun c' q' h => ?_⟩
  · refine ⟨_, d.extractLsb' 0 3, getLsbD_scrollX q d, fun i => ?_, ?_⟩
    · rw [BitVec.getLsbD_extractLsb', Nat.zero_add, Bool.and_comm]
    · simp [ppuPortWrite, writePpuScroll, hw]
  · exact ⟨_, getLsbD_scrollY q d, by simp [ppuPortWrite, writePpuScroll, hw]⟩
  · exact ⟨_, getLsbD_addrHigh q d, by simp [ppuPortWrite, writePpuAddr, hw]⟩
  · exact ⟨_, getLsbD_addrLow q d, by simp [ppuPortWrite, writePpuAddr, hw]⟩
  · rw [ppuWrite_v] at h
    obtain ⟨hv, hctrl⟩ := ppuWrite_registers h
    simp only [ppuPortWrite, h, Run.ok_bind, Ppu.stepV, Ppu.vStep, hv, hctrl]

/-- Settles O36: both accesses are to cells of the same memory. -/
theorem videoMemoryReadsBack : Obligations.VideoMemoryReadsBack := by
  intro c q a a' d ha ha'
  have hx := videoCell_table_le c.mirroring a
  have hy := videoCell_table_le c.mirroring a'
  have hmask := writeCell_mask q (videoCell c.mirroring a) d
  refine ⟨_, ppuWrite_cell ha c q d, hmask, fun he => ?_, fun hne => ?_⟩
  · rw [ppuRead_cell ha', readCell_writeCell q hx hy, if_pos he, videoMask, hmask]
  · rw [ppuRead_cell ha', ppuRead_cell ha', readCell_writeCell q hx hy, if_neg hne, videoMask, videoMask, hmask]

/-- Settles O37: reads depend on the cartridge alone, so a write to the internal tables is not seen. -/
theorem patternMemory : Obligations.PatternMemory := by
  intro c q a a' d hc ha ha'
  refine ⟨fun hm => ⟨?_, ppuWrite_pattern_nrom hm q d ha⟩, fun bank hm => ⟨?_, _, ppuWrite_pattern_cnrom hm q d ha, ?_, ?_, ?_⟩⟩
  · rw [ppuRead_pattern_inRange hc q ha, patternOffset, hm]
  · rw [ppuRead_pattern_inRange hc q ha, patternOffset, hm]
  · rw [ppuRead_pattern_inRange hc _ ha', ppuRead_pattern_inRange hc _ ha']
  · intro hlow
    rw [writePt_ppuAddr q d ha, if_pos hlow]
  · intro hhigh
    rw [writePt_ppuAddr q d ha, if_neg (by omega)]

end Sys2Proof.Settled
end

section
/-! Proofs, part 13: the decoder and the encoder, each row of the opcode table against the mnemonics (30_encoding.md R130, R131,
R146 to R151). -/

namespace Sys2Proof

/-! ### Words as two bytes -/

@[simp] theorem wordOf_lowByte_highByte (w : Word) : wordOf (lowByte w) (highByte w) = w :=
  BitVec.extractLsb'_append_extractLsb'

@[simp] theorem lowByte_wordOf (lo hi : Byte) : lowByte (wordOf lo hi) = lo := BitVec.extractLsb'_append_eq_right

@[simp] theorem highByte_wordOf (lo hi : Byte) : highByte (wordOf lo hi) = hi := BitVec.extractLsb'_append_eq_left

/-! ### Decoding undoes encoding -/

/-- The operand bytes a form reads, and the instruction it makes of them (R130, R131, R139). -/
inductive Form.Reads : Form → List Byte → Instr → Prop where
  | implied (i : Instr) : (Form.implied i).Reads [] i
  | padded (i : Instr) (b : Byte) : (Form.padded i).Reads [b] i
  | byte (f : Byte → Instr) (b : Byte) : (Form.byte f).Reads [b] (f b)
  | word (f : Word → Instr) (w : Word) : (Form.word f).Reads [lowByte w, highByte w] (f w)

/-- What a form reads is what the decoder makes of its operand bytes, whatever follows them. -/
theorem Form.Reads.decode_cons {op : Byte} {bytes : List Byte} {i : Instr} (h : (opcodeRow op).form.Reads bytes i)
    (rest : List Byte) : decode (op :: (bytes ++ rest)) = .ok (i, rest) := by
  rw [decode]
  generalize (opcodeRow op).form = form at h
  cases h with
  | implied i => rfl
  | padded i b => rfl
  | byte f b => rfl
  | word f w => exact congrArg (fun v => Except.ok (f v, rest)) (wordOf_lowByte_highByte w)

/-- The form of an undefined opcode in the table is that opcode's no-op (R151). -/
def Form.isUndefined (op : Byte) : Form → Bool
  | .implied i => i == .undef op
  | _ => false

/-- R150 lists the opcodes to which the table gives the form of an undefined one, in order. -/
theorem undefinedOpcodes_eq_filter : undefinedOpcodes =
    ((List.range 256).map (BitVec.ofNat 8)).filter (fun op => (opcodeRow op).form.isUndefined op) := by decide

theorem opcodeRow_isUndefined (op : Byte) : (opcodeRow op).form.isUndefined op = isUndefinedOpcode op := by
  have hop : op ∈ (List.range 256).map (BitVec.ofNat 8) :=
    List.mem_map.2 ⟨op.toNat, List.mem_range.2 op.isLt, BitVec.ofNat_toNat 8 op⟩
  rw [Bool.eq_iff_iff, isUndefinedOpcode, List.contains_iff_mem, undefinedOpcodes_eq_filter, List.mem_filter, and_iff_right hop]

theorem opcodeRow_undefined {op : Byte} (h : isUndefinedOpcode op = true) : (opcodeRow op).form = .implied (.undef op) := by
  rw [← opcodeRow_isUndefined] at h
  cases hf : (opcodeRow op).form with
  | implied i => simpa [hf, Form.isUndefined] using h
  | padded i => simp [hf, Form.isUndefined] at h
  | byte f => simp [hf, Form.isUndefined] at h
  | word f => simp [hf, Form.isUndefined] at h

/-- The row that an instruction's opcode selects reads the instruction's own operand bytes, and makes the instruction of them. -/
theorem opcodeRow_reads_operandBytes (i : Instr) (h : i.wf = true) :
    (opcodeRow (opcodeOf i)).form.Reads (operandBytes i) i := by
  cases i
  case lda m | adc m | sbc m | and m | ora m | eor m | cmp m =>
    cases m <;> dsimp only [opcodeOf, Src8.pick]
    case imm | zp0 | zpx | izx | izy => exact .byte _ _
    case abs | abx | aby => exact .word _ _
  case ldx m =>
    cases m <;> dsimp only [opcodeOf, LdxSrc.pick]
    case imm | zp0 | zpy => exact .byte _ _
    case abs | aby => exact .word _ _
  case ldy m =>
    cases m <;> dsimp only [opcodeOf, LdySrc.pick]
    case imm | zp0 | zpx => exact .byte _ _
    case abs | abx => exact .word _ _
  case cpx m | cpy m =>
    cases m <;> dsimp only [opcodeOf, CpSrc.pick]
    case imm | zp0 => exact .byte _ _
    case abs => exact .word _ _
  case bit m =>
    cases m <;> dsimp only [opcodeOf, BitSrc.pick]
    case zp0 => exact .byte _ _
    case abs => exact .word _ _
  case sta m =>
    cases m <;> dsimp only [opcodeOf, StaDst.pick]
    case zp0 | zpx | izx | izy => exact .byte _ _
    case abs | abx | aby => exact .word _ _
  case stx m =>
    cases m <;> dsimp only [opcodeOf, StxDst.pick]
    case zp0 | zpy => exact .byte _ _
    case abs => exact .word _ _
  case sty m =>
    cases m <;> dsimp only [opcodeOf, StyDst.pick]
    case zp0 | zpx => exact .byte _ _
    case abs => exact .word _ _
  case inc m | dec m =>
    cases m <;> dsimp only [opcodeOf, RmwDst.pick]
    case zp0 | zpx => exact .byte _ _
    case abs | abx => exact .word _ _
  case asl d | lsr d | rol d | ror d =>
    cases d with
    | acc => exact .implied _
    | mem m =>
      cases m <;> dsimp only [opcodeOf, ShiftDst.pick, RmwDst.pick]
      case zp0 | zpx => exact .byte _ _
      case abs | abx => exact .word _ _
  case jmp m =>
    cases m <;> dsimp only [opcodeOf, JmpTarget.pick] <;> exact .word _ _
  case jsr w => dsimp only [opcodeOf]; exact .word _ w
  case bcc d | bcs d | beq d | bmi d | bne d | bpl d | bvc d | bvs d => dsimp only [opcodeOf]; exact .byte _ d
  case brk => exact .padded _ _
  case undef op => exact (opcodeRow_undefined h : (opcodeRow op).form = _) ▸ .implied _
  all_goals exact .implied _

/-- Decoding the bytes of a well-formed instruction gives it back (R130, R146). -/
theorem decode_encode (i : Instr) (rest : List Byte) (h : i.wf = true) : decode (encode i ++ rest) = .ok (i, rest) :=
  (opcodeRow_reads_operandBytes i h).decode_cons rest

/-! ### The rows of the table -/

/-- Every instruction of a form is encoded as `op` and the operand bytes of the form; the padded form is BRK's. -/
def Form.Encoded (op : Byte) : Form → Prop
  | .implied i => encode i = [op]
  | .padded i => i = .brk ∧ op = opcodeOf .brk
  | .byte f => (fun b => encode (f b)) = fun b => [op, b]
  | .word f => (fun w => encode (f w)) = fun w => [op, lowByte w, highByte w]

/-- The entries of a part of the table, from the one at opcode `n` on, are encoded with their own opcodes. -/
def RowsEncoded : Nat → List OpcodeRow → Prop
  | _, [] => True
  | n, r :: rows => r.form.Encoded (BitVec.ofNat 8 n) ∧ RowsEncoded (n + 1) rows

/-- Every row of the table is encoded as R147 numbers it: each entry's own encoder gives the opcode of its place. -/
theorem opcodeTable_encoded {k : Nat} (h : k < 16) : RowsEncoded (16 * k) (opcodeTable.getD k []) := by
  interval_cases k <;> and_intros <;> trivial

theorem RowsEncoded.getD {rows : List OpcodeRow} {n j : Nat} (r : OpcodeRow) (hj : j < rows.length) (h : RowsEncoded n rows) :
    (rows.getD j r).form.Encoded (BitVec.ofNat 8 (n + j)) := by
  induction rows generalizing n j with
  | nil => simp at hj
  | cons r' rows ih =>
    obtain ⟨h0, hrest⟩ := h
    cases j with
    | zero => exact h0
    | succ j =>
      have := ih (by simpa using hj) hrest
      rwa [Nat.add_right_comm] at this

/-- The entry an opcode selects is encoded with that opcode (R146, R148). -/
theorem opcodeRow_encoded (op : Byte) : (opcodeRow op).form.Encoded op := by
  have hlen : ∀ k < 16, (opcodeTable.getD k []).length = 16 := by decide
  have hk : op.toNat / 16 < 16 := by omega
  have h := (opcodeTable_encoded hk).getD (rowUndef op 2) (j := op.toNat % 16) (by rw [hlen _ hk]; omega)
  rwa [Nat.div_add_mod, BitVec.ofNat_toNat, BitVec.setWidth_eq] at h

/-! ### What the decoder makes of three bytes -/

/-- An instruction of the opcode `op` is well-formed where it is the undefined one for no other opcode than R150's. -/
theorem wf_of_opcodeOf {i : Instr} {op : Byte} (h : opcodeOf i = op) (hu : i = .undef op → isUndefinedOpcode op = true) :
    i.wf = true := by
  cases i with
  | undef op' =>
    obtain rfl : op' = op := h
    exact hu rfl
  | _ => rfl

theorem opcodeOf_of_encode {i : Instr} {op : Byte} {bytes : List Byte} (h : encode i = op :: bytes) : opcodeOf i = op :=
  (List.cons.inj h).1

/-- An instruction that has an operand byte is the undefined one of no opcode, and so is well-formed. -/
theorem wf_of_encode {i : Instr} {op b : Byte} {bytes : List Byte} (h : encode i = op :: b :: bytes) :
    i.wf = true ∧ ∀ op', i ≠ .undef op' := by
  have hne : ∀ op', i ≠ .undef op' := by
    rintro op' rfl
    cases h
  exact ⟨wf_of_opcodeOf rfl fun hu => absurd hu (hne _), hne⟩

end Sys2Proof
end

section
/-! Proofs, part 14: effective addresses as numbers, the countdown an instruction leaves, and the undefined opcodes' counts
(30_encoding.md R135 to R144, R150 to R152, 40_dispatch.md R173, R178). -/

namespace Sys2Proof.Machine

open Sys2Proof.Claims

/-! ### Pages -/

theorem highByte_toNat (w : Word) : (highByte w).toNat = w.toNat / 256 := by
  have := w.isLt
  simp only [highByte, BitVec.extractLsb'_toNat, Nat.shiftRight_eq_div_pow]
  omega

theorem and_pageMask (w : Word) : w &&& 0xFF00 = wordOf 0x00 (highByte w) :=
  calc w &&& 0xFF00
    _ = wordOf (lowByte w) (highByte w) &&& wordOf 0x00 0xFF := by rw [wordOf_lowByte_highByte]; rfl
    _ = wordOf (lowByte w &&& 0x00) (highByte w &&& 0xFF) := BitVec.and_append
    _ = wordOf 0x00 (highByte w) := by
      rw [show lowByte w &&& 0x00 = 0x00 from BitVec.and_zero, show highByte w &&& 0xFF = highByte w from BitVec.and_allOnes]

theorem highByte_eq_iff (a b : Word) : highByte a = highByte b ↔ a &&& 0xFF00 = b &&& 0xFF00 := by
  rw [and_pageMask, and_pageMask]
  exact ⟨fun h => by rw [h], fun h => by simpa using congrArg highByte h⟩

theorem pageCrossed_eq_decide (base ea : Word) : pageCrossed base ea = decide (highByte ea ≠ highByte base) := by
  rw [pageCrossed, bne, Bool.beq_eq_decide_eq, ← decide_not]

/-- A page is crossed where bits 15 to 8 change (R140, R273). -/
theorem pageCrossed_eq (base ea : Word) : pageCrossed base ea = decide (ea &&& 0xFF00 ≠ base &&& 0xFF00) := by
  rw [pageCrossed_eq_decide, decide_eq_decide]
  exact (highByte_eq_iff ea base).not

theorem leavesPage_eq (s : State) (m : Addr) : leavesPage s m = (addrOf m s).2 := by
  cases m with
  | abx w => exact (pageCrossed_eq w _).symm
  | aby w => exact (pageCrossed_eq w _).symm
  | izy z => exact (pageCrossed_eq _ _).symm
  | _ => rfl

/-! ### Addresses as numbers -/

theorem wordOf_toNat (lo hi : Byte) : (wordOf lo hi).toNat = hi.toNat * 256 + lo.toNat := by
  have hlo : lo.toNat < 2 ^ 8 := lo.isLt
  rw [wordOf, BitVec.toNat_append, Nat.shiftLeft_eq, Nat.mul_comm, ← Nat.two_pow_add_eq_or_of_lt hlo, Nat.mul_comm]

theorem zeroPage_eq_ofNat (z : Byte) : zeroPage z = BitVec.ofNat 16 z.toNat := by
  apply BitVec.eq_of_toNat_eq
  rw [zeroPage, wordOf_toNat, BitVec.toNat_ofNat, Nat.mod_eq_of_lt (by omega)]
  exact Nat.zero_add _

/-- An indexed address wraps at 65536, and leaves the base's page where the low byte's sum does (R140). -/
theorem indexed_eq (base : Word) (i : Byte) :
    indexed base i = (BitVec.ofNat 16 ((base.toNat + i.toNat) % 65536), decide (256 ≤ base.toNat % 256 + i.toNat)) := by
  have hbase := base.isLt
  have hi := i.isLt
  have hsum : (base + i.setWidth 16).toNat = (base.toNat + i.toNat) % 65536 := by
    rw [BitVec.toNat_add, BitVec.toNat_setWidth_of_le (by decide)]
  have haddr : base + i.setWidth 16 = BitVec.ofNat 16 ((base.toNat + i.toNat) % 65536) := by
    rw [← hsum, BitVec.ofNat_toNat, BitVec.setWidth_eq]
  have hcross : pageCrossed base (base + i.setWidth 16) = decide (256 ≤ base.toNat % 256 + i.toNat) := by
    rw [pageCrossed_eq_decide, decide_eq_decide, Ne, ← BitVec.toNat_inj, highByte_toNat, highByte_toNat, hsum]
    omega
  rw [indexed, hcross, haddr]

/-! ### The countdown an instruction leaves -/

/-- The mode's extra-cycle signal is that the address read leaves its base's page (R173). -/
theorem readOperand_cross {o : Operand} {s t : State} {b : Byte} {cross : Bool} (h : readOperand o s = .ok (b, cross, t)) :
    cross = ((memPart o).map (leavesPage s)).getD false := by
  cases o with
  | imm b' => cases h; rfl
  | mem m =>
    simp only [readOperand, resolve_eq, Run.ok_bind] at h
    obtain ⟨⟨b', u⟩, _, h⟩ := Run.bind_ok h
    cases h
    exact (leavesPage_eq s m).symm

theorem readInstr_cycles {op : Byte} {o : Operand} {asks : Bool} {f : Byte → State → State} {s t : State}
    (h : readInstr op o asks f s = .ok t) (hf : ∀ b u, (f b u).cycles = u.cycles) :
    t.cycles = baseCycles op + if asks && ((memPart o).map (leavesPage s)).getD false then 1 else 0 := by
  obtain ⟨b, cross, u, hr, rfl⟩ := readInstr_inv h
  rw [← readOperand_cross hr, State.addCycles, State.setCycles_cycles, hf, State.setCycles_cycles, Bool.and_comm, Bool.toNat]
  cases asks && cross <;> rfl

theorem storeInstr_cycles {op : Byte} {m : Addr} {r : State → Byte} {s t : State} (h : storeInstr op m r s = .ok t) :
    t.cycles = baseCycles op := by
  rw [storeInstr_eq] at h
  exact (busWrite_effect h).cycles

theorem rmwInstr_cycles {op : Byte} {m : Addr} {f : Byte → Byte → Byte × Byte} {s t : State} (h : rmwInstr op m f s = .ok t) :
    t.cycles = baseCycles op := by
  obtain ⟨b, cross, u, _, hw⟩ := rmwInstr_inv h
  exact (busWrite_effect hw).cycles

theorem shiftInstr_cycles {op : Byte} {d : ShiftDst} {f : ShiftFn} {s t : State} (h : shiftInstr op d f s = .ok t) :
    t.cycles = baseCycles op := by
  cases d with
  | acc => cases h; rfl
  | mem m =>
    rw [shiftInstr] at h
    exact rmwInstr_cycles h

theorem branchInstr_cycles {op d : Byte} {c : State → Bool} {s t : State} {taken : Bool} (h : branchInstr op d c s = .ok t)
    (hc : c s = taken) : t.cycles = baseCycles op + branchExtra s d taken := by
  subst hc
  have hextra : branchCycles s.pc (branchTarget s.pc d) (c s) = branchExtra s d (c s) := by
    simp only [branchCycles, branchExtra, branchTarget, pageCrossed_eq, decide_eq_true_eq]
  rw [← hextra]
  simp only [branchInstr, Except.ok.injEq] at h
  subst h
  cases c s <;> rfl

/-- R178: as long as the countdown lasts, calls of the CPU only count. -/
theorem runTimes_cpuClock (k : Nat) (s : State) (h : k ≤ s.cycles) :
    runTimes cpuClock k s = .ok { s with cycles := s.cycles - k, clockCount := s.clockCount + k } := by
  induction k generalizing s with
  | zero => rfl
  | succ k ih =>
    rw [runTimes, cpuClock_countdown (by omega), Run.ok_bind, ih s.countDown (Nat.le_sub_of_add_le h)]
    simp [State.countDown, State.setCycles, State.setClockCount, Nat.sub_sub, Nat.add_assoc, Nat.add_comm 1 k]

/-- The countdown R173 gives an instruction: the count of its opcode, the extra cycle, and a branch's own cycles. -/
def instrTime (s : State) (i : Instr) : Nat :=
  (match i with | .undef op => s.undefCycles op | i => baseCycles (opcodeOf i))
    + (if asksExtra i && ((readMode i).map (leavesPage s)).getD false then 1 else 0)
    + (match branchOf i with | some (d, f, v) => branchExtra s d (s.flag f == v) | none => 0)

/-- R173: every instruction that answers leaves its countdown. -/
theorem exec_cycles {i : Instr} {s t : State} (h : exec i s = .next t) : t.cycles = instrTime s i := by
  cases i
  case lda m | ldx m | ldy m | adc m | sbc m | and m | ora m | eor m | cmp m | bit m | cpx m | cpy m =>
    exact readInstr_cycles (toOutcome_eq_next h) (fun _ _ => rfl)
  case sta m | stx m | sty m => exact storeInstr_cycles (toOutcome_eq_next h)
  case inc m | dec m => exact rmwInstr_cycles (toOutcome_eq_next h)
  case asl d | lsr d | rol d | ror d => exact shiftInstr_cycles (toOutcome_eq_next h)
  case bcc d => exact branchInstr_cycles (toOutcome_eq_next (by rwa [exec, execBcc] at h)) (by simp)
  case bcs d => exact branchInstr_cycles (toOutcome_eq_next (by rwa [exec, execBcs] at h)) (by simp)
  case beq d => exact branchInstr_cycles (toOutcome_eq_next (by rwa [exec, execBeq] at h)) (by simp)
  case bmi d => exact branchInstr_cycles (toOutcome_eq_next (by rwa [exec, execBmi] at h)) (by simp)
  case bne d => exact branchInstr_cycles (toOutcome_eq_next (by rwa [exec, execBne] at h)) (by simp)
  case bpl d => exact branchInstr_cycles (toOutcome_eq_next (by rwa [exec, execBpl] at h)) (by simp)
  case bvc d => exact branchInstr_cycles (toOutcome_eq_next (by rwa [exec, execBvc] at h)) (by simp)
  case bvs d => exact branchInstr_cycles (toOutcome_eq_next (by rwa [exec, execBvs] at h)) (by simp)
  case pha | php => exact (push_keeps (toOutcome_eq_next h)).2
  case pla | plp | rts | rti =>
    simp only [exec, execPla, execPlp, execRts, execRti, stackInstr, pull_eq, pullWord_eq, returnFromHandler_eq, Run.ok_bind,
      toOutcome_ok] at h
    cases h
    rfl
  case jmp m =>
    obtain ⟨⟨w, u⟩, hj, h⟩ := Run.bind_ok (toOutcome_eq_next h)
    cases h
    exact (jumpTarget_keeps hj).2
  case jsr w =>
    obtain ⟨u, hpush, h⟩ := Run.bind_ok (toOutcome_eq_next h)
    cases h
    exact (pushWord_keeps hpush).2
  case brk => exact (enterHandler_leaves (toOutcome_eq_next h)).2.1
  all_goals
    cases h
    rfl

/-! ### Undefined opcodes -/

theorem undefCycles_default {s : State} (h : s.params.undefCycles = []) (op : Byte) : s.undefCycles op = baseCycles op := by
  rw [State.undefCycles, h]
  rfl

theorem baseCycles_pos (op : Byte) : 1 ≤ baseCycles op := by
  revert op; decide

/-- A count that the run sets is one more than a number from 0 to 7, so it is at least 1 (00_scope.md R10). -/
theorem undefCycles_pos (s : State) (op : Byte) : 1 ≤ s.undefCycles op := by
  unfold State.undefCycles
  split
  · exact Nat.succ_pos _
  · exact baseCycles_pos op

/-- R152 lists, for each count from 2 to 8, the undefined opcodes to which the opcode table gives it. -/
theorem undefTable_eq_filter : undefTable =
    [2, 3, 4, 5, 6, 7, 8].map (fun n => (n, undefinedOpcodes.filter (fun op => baseCycles op == n))) := by decide

theorem baseCycles_undefined : undefinedOpcodes.all (fun op => [2, 3, 4, 5, 6, 7, 8].contains (baseCycles op)) = true := by
  decide

theorem baseCycles_of_mem_undefTable {e : Nat × List Byte} {op : Byte} (he : e ∈ undefTable) (hop : op ∈ e.2) :
    op ∈ undefinedOpcodes ∧ baseCycles op = e.1 := by
  rw [undefTable_eq_filter] at he
  obtain ⟨n, _, rfl⟩ := List.mem_map.1 he
  simpa using hop

/-- R150 and R152 list the same opcodes. -/
theorem mem_undefinedOpcodes_iff (op : Byte) : op ∈ undefinedOpcodes ↔ ∃ e ∈ undefTable, op ∈ e.2 := by
  refine ⟨fun hop => ?_, fun ⟨e, he, hop⟩ => (baseCycles_of_mem_undefTable he hop).1⟩
  have hcount := List.contains_iff_mem.1 (List.all_eq_true.1 baseCycles_undefined op hop)
  rw [undefTable_eq_filter]
  exact ⟨_, List.mem_map_of_mem hcount, List.mem_filter.2 ⟨hop, beq_self_eq_true _⟩⟩

end Sys2Proof.Machine
end

section
/-! Proofs, part 15: the statements about encoding, time, addressing and undefined opcodes settled. -/

namespace Sys2Proof.Settled

open Sys2Proof.Machine Sys2Proof.Claims

/-- Settles O1: the row of an instruction's opcode reads back its operand bytes (`opcodeRow_reads_operandBytes`). -/
theorem decodeEncodeRoundTrip : Obligations.DecodeEncodeRoundTrip := decode_encode

/-- Settles O2, by the form of the entry that the opcode selects: the entry is encoded with that opcode (`opcodeRow_encoded`), and it is
the undefined one exactly where R150 lists the opcode (`opcodeRow_isUndefined`). -/
theorem decodeTotalAndFaithful : Obligations.DecodeTotalAndFaithful := by
  intro op b1 b2
  have henc := opcodeRow_encoded op
  have hund := opcodeRow_isUndefined op
  rw [decode]
  cases hform : (opcodeRow op).form with
  | implied i =>
    rw [hform] at henc hund
    have hiff : isUndefinedOpcode op = true ↔ i = .undef op := by rw [← hund]; exact beq_iff_eq
    have hop := opcodeOf_of_encode henc
    exact ⟨i, [b1, b2], rfl, wf_of_opcodeOf hop hiff.2, hop, by rw [henc]; rfl, fun _ => by rw [henc]; rfl, hiff, fun _ => rfl⟩
  | padded i =>
    rw [hform] at henc hund
    obtain ⟨rfl, rfl⟩ := henc
    exact ⟨.brk, [b2], rfl, rfl, rfl, rfl, fun h => absurd rfl h, by rw [← hund]; decide, nofun⟩
  | byte f =>
    rw [hform] at henc hund
    replace henc := congrFun henc b1
    obtain ⟨hwf, hne⟩ := wf_of_encode henc
    exact ⟨f b1, [b2], rfl, hwf, opcodeOf_of_encode henc, by rw [henc]; rfl, fun _ => by rw [henc]; rfl,
      iff_of_false (by rw [← hund]; nofun) (hne op), fun h => absurd h (hne op)⟩
  | word f =>
    rw [hform] at henc hund
    replace henc := congrFun henc (wordOf b1 b2)
    rw [lowByte_wordOf, highByte_wordOf] at henc
    obtain ⟨hwf, hne⟩ := wf_of_encode henc
    exact ⟨f (wordOf b1 b2), [], rfl, hwf, opcodeOf_of_encode henc, by rw [henc]; rfl, fun _ => by rw [henc]; rfl,
      iff_of_false (by rw [← hund]; nofun) (hne op), fun h => absurd h (hne op)⟩

/-- Settles O6: the shapes of the instructions for the countdown they leave, and induction on the calls that count it down. -/
theorem instructionTimeAndCountdown : Obligations.InstructionTimeAndCountdown :=
  ⟨runTimes_cpuClock, fun _ _ _ h => exec_cycles h⟩

/-- Settles O29: `addrOf`, which `effectiveAddr` gives (`effectiveAddr_eq`), with its sums as numbers. -/
theorem effectiveAddresses : Obligations.EffectiveAddresses := by
  intro s z w
  refine ⟨?_, ?_, ?_, ?_, ?_, ?_, ?_, fun lo hi hlo hhi => ?_⟩
  · rw [effectiveAddr_eq, addrOf, zeroPage_eq_ofNat]
  · rw [effectiveAddr_eq, addrOf, zeroPage_eq_ofNat, BitVec.toNat_add]
  · rw [effectiveAddr_eq, addrOf, zeroPage_eq_ofNat, BitVec.toNat_add]
  · rw [effectiveAddr_eq, addrOf]
  · rw [effectiveAddr_eq, addrOf, indexed_eq]
  · rw [effectiveAddr_eq, addrOf, indexed_eq]
  · rw [effectiveAddr_eq, addrOf, ramPointer, wordOf, BitVec.toNat_add, BitVec.toNat_add, Nat.mod_add_mod]
    rfl
  · have hptr : ramPointer s.ram z = wordOf lo hi := by
      rw [ramPointer, hlo, hhi, BitVec.toNat_add]
      rfl
    rw [effectiveAddr_eq, addrOf, hptr, indexed_eq, wordOf_toNat, Nat.mul_add_mod_of_lt lo.isLt]

/-- Settles O30: an operand in memory is one bus read, and all a bus read can change is in its frame. -/
theorem operandFetch : Obligations.OperandFetch := by
  intro s
  refine ⟨fun b => rfl, fun m b t h => ?_, fun h a => ?_⟩
  · simp only [readOperand, resolve_eq, Run.ok_bind, fetchOperand, busRead_setAddrAbs, h, map_ok]
    rfl
  · obtain ⟨b, t, hb⟩ := busRead_inRange h a
    obtain ⟨st, w, v, db, p0, p1, rfl, _⟩ := busRead_effect hb
    exact ⟨b, _, hb, rfl, rfl⟩

/-- Settles O3: each word, its operand bytes in place, decodes by evaluation. -/
theorem decodedWords : Obligations.DecodedWords := by
  and_intros <;> rfl

/-- Settles O22: the lists of R150 and R152 name the same opcodes, with the counts of the opcode table. -/
theorem undefinedOpcodeResults : Obligations.UndefinedOpcodeResults := by
  refine ⟨fun op => ?_, fun s e he op hop => ?_, fun _ _ => rfl⟩
  · rw [isUndefinedOpcode, List.contains_iff_mem]
    exact mem_undefinedOpcodes_iff op
  · obtain ⟨_, hbase⟩ := baseCycles_of_mem_undefTable he hop
    exact ⟨undefCycles_pos s op, undefCycles_le s op, fun h => (undefCycles_default h op).trans hbase⟩

end Sys2Proof.Settled
end

section
/-! Proofs, part 16: the fetch, as bus reads of consecutive bytes and as the decoder's inverse, and the master step that dispatches what
was fetched (30_encoding.md R130 to R132, 40_dispatch.md R171, R178, R180). -/

namespace Sys2Proof

/-! ### The bytes of an instruction -/

/-- A form that reads a word makes its instruction of the two bytes, low byte first (R139). -/
theorem Form.Reads.word_of_bytes (f : Word → Instr) (lo hi : Byte) : (Form.word f).Reads [lo, hi] (f (wordOf lo hi)) := by
  simpa using Form.Reads.word f (wordOf lo hi)

theorem Form.Reads.length_eq {form : Form} {bytes : List Byte} {i : Instr} (h : form.Reads bytes i) :
    form.length = bytes.length + 1 := by
  cases h <;> rfl

/-- The bytes that decode to an instruction are an opcode and the operand bytes that the opcode's form reads. -/
theorem decode_inv {bs : List Byte} {i : Instr} (h : decode bs = .ok (i, [])) :
    ∃ op bytes, bs = op :: bytes ∧ (opcodeRow op).form.Reads bytes i := by
  cases bs with
  | nil => cases h
  | cons op bytes =>
    refine ⟨op, bytes, rfl, ?_⟩
    rw [decode] at h
    generalize (opcodeRow op).form = form at h
    match form, bytes, h with
    | .implied i, [], rfl => exact .implied i
    | .padded i, [b], rfl => exact .padded i b
    | .byte f, [b], rfl => exact .byte f b
    | .word f, [lo, hi], rfl => exact .word_of_bytes f lo hi

/-- What the form of an opcode reads is a well-formed instruction of that opcode: three bytes from it on decode to the instruction. -/
theorem Form.Reads.opcode {op : Byte} {bytes : List Byte} {i : Instr} (h : (opcodeRow op).form.Reads bytes i) :
    i.wf = true ∧ opcodeOf i = op := by
  have hpad : ∃ b1 b2 rest, bytes ++ rest = [b1, b2] := by
    generalize (opcodeRow op).form = form at h
    cases h with
    | implied i => exact ⟨0, 0, _, rfl⟩
    | padded i b => exact ⟨b, 0, [0], rfl⟩
    | byte f b => exact ⟨b, 0, [0], rfl⟩
    | word f w => exact ⟨_, _, [], rfl⟩
  obtain ⟨b1, b2, rest, hbytes⟩ := hpad
  obtain ⟨i', rest', hdec, hwf, hop, _⟩ := Settled.decodeTotalAndFaithful op b1 b2
  cases (hbytes ▸ h.decode_cons rest).symm.trans hdec
  exact ⟨hwf, hop⟩

/-- BRK's form is the padded one. -/
theorem Form.Reads.brk_form {op : Byte} {bytes : List Byte} (h : (opcodeRow op).form.Reads bytes .brk) :
    (opcodeRow op).form = .padded .brk := by
  obtain rfl : (0x00 : Byte) = op := h.opcode.2
  rfl

/-- No other instruction has a padded form. -/
theorem opcodeRow_padded {op : Byte} {i : Instr} (h : (opcodeRow op).form = .padded i) : i = .brk := by
  have henc := opcodeRow_encoded op
  rw [h] at henc
  exact henc.1

end Sys2Proof

namespace Sys2Proof.Machine

open Sys2Proof.Claims

/-! ### What a fetch did -/

/-- `t` is `s` after a fetch, the opcode register apart: PC moved, and the reads' own side effects. -/
def FetchFrame (s t : State) : Prop :=
  t = { s with pc := t.pc, ppu := t.ppu, padSr0 := t.padSr0, padSr1 := t.padSr1 }

theorem FetchFrame.trans {s t u : State} (h : FetchFrame s t) (h' : FetchFrame t u) : FetchFrame s u :=
  Eq.trans h' (by rw [h])

theorem ReadFrame.pc {s t : State} (h : ReadFrame s t) : t.pc = s.pc := by
  obtain ⟨_, _, _, _, _, _, rfl, _⟩ := h
  rfl

theorem fetchByte_inv {s t : State} {b : Byte} (h : fetchByte s = .ok (b, t)) : FetchFrame s t ∧ t.pc = s.pc + 1 := by
  obtain ⟨⟨b', u⟩, hread, h⟩ := Run.bind_ok h
  cases h
  have hframe := busRead_effect hread
  refine ⟨?_, congrArg (· + 1) hframe.pc⟩
  obtain ⟨_, _, _, _, _, _, rfl, _⟩ := hframe
  rfl

/-- Two counts of bytes past an address are their sum past it. -/
theorem add_ofNat_add (w : Word) (m n : Nat) : w + BitVec.ofNat 16 m + BitVec.ofNat 16 n = w + BitVec.ofNat 16 (m + n) := by
  rw [BitVec.ofNat_add, BitVec.add_assoc]

/-- The operand bytes that a form reads stand at PC, which ends past them. -/
theorem fetchForm_inv {form : Form} {s t : State} {i : Instr} (h : fetchForm form s = .ok (i, t)) :
    ∃ bytes, form.Reads bytes i ∧ FetchFrame s t ∧ t.pc = s.pc + BitVec.ofNat 16 bytes.length := by
  cases form with
  | implied i' =>
    cases h
    exact ⟨[], .implied i, rfl, (BitVec.add_zero s.pc).symm⟩
  | padded i' =>
    cases h
    exact ⟨[0], .padded i 0, rfl, rfl⟩
  | byte f =>
    obtain ⟨⟨b, u⟩, hb, h⟩ := Run.bind_ok h
    cases h
    exact ⟨[b], .byte f b, fetchByte_inv hb⟩
  | word f =>
    obtain ⟨⟨lo, u⟩, hlo, h⟩ := Run.bind_ok h
    obtain ⟨⟨hi, v⟩, hhi, h⟩ := Run.bind_ok h
    cases h
    obtain ⟨hframe, hpc⟩ := fetchByte_inv hlo
    obtain ⟨hframe', hpc'⟩ := fetchByte_inv hhi
    refine ⟨[lo, hi], .word_of_bytes f lo hi, hframe.trans hframe', ?_⟩
    rw [hpc', hpc]
    exact add_ofNat_add s.pc 1 1

/-- A fetch reads the bytes of an instruction of the opcode it loads, and leaves PC past them (R171, R180). -/
theorem fetchInstr_inv {s t : State} {i : Instr} (h : fetchInstr s = .ok (i, t)) :
    ∃ bytes, (opcodeRow t.opcode).form.Reads bytes i ∧ FetchFrame (s.setOpcode t.opcode) t ∧
      t.pc = s.pc + BitVec.ofNat 16 (bytes.length + 1) := by
  obtain ⟨⟨op, u⟩, hop, h⟩ := Run.bind_ok h
  obtain ⟨hframe, hpc⟩ := fetchByte_inv hop
  obtain ⟨bytes, hreads, hframe', hpc'⟩ := fetchForm_inv h
  have hopcode : t.opcode = op := by rw [hframe']; rfl
  have hframeOp : FetchFrame (s.setOpcode op) (u.setOpcode op) := congrArg (State.setOpcode · op) hframe
  refine ⟨bytes, hopcode ▸ hreads, hopcode ▸ hframeOp.trans hframe', ?_⟩
  rw [hpc', State.setOpcode_pc, hpc, Nat.add_comm]
  exact add_ofNat_add s.pc 1 bytes.length

/-! ### Fetching given bytes -/

/-- `s` with the opcode register loaded and PC moved. -/
def State.atFetch (s : State) (op : Byte) (pc : Word) : State := { s with opcode := op, pc := pc }

/-- Where PC and the opcode register stand makes no difference to a read. -/
theorem busRead_atFetch {a : Word} {s t : State} {b : Byte} (h : busRead a s = .ok (b, t)) (op : Byte) (pc : Word) :
    busRead a (s.atFetch op pc) = .ok (b, t.atFetch op pc) := by
  rw [busRead_congr a (s := s) (s' := s.atFetch op pc) rfl rfl rfl rfl rfl, h]
  obtain ⟨_, _, _, _, _, _, rfl, _⟩ := busRead_effect h
  rfl

theorem fetchByte_atFetch {w : Word} {s t : State} {b : Byte} (h : busRead w s = .ok (b, t)) (op : Byte) :
    fetchByte (s.atFetch op w) = .ok (b, t.atFetch op (w + 1)) := by
  rw [fetchByte, show busRead (s.atFetch op w).pc _ = _ from busRead_atFetch h op w]
  rfl

/-- Bus reads of the operand bytes of a form, BRK's padding byte apart, are the fetch of its instruction. -/
theorem fetchForm_atFetch {form : Form} {bytes : List Byte} {i : Instr} (h : form.Reads bytes i) (hform : form ≠ .padded i)
    {w : Word} {s t : State} (hread : BytesRead w bytes s t) (op : Byte) :
    fetchForm form (s.atFetch op w) = .ok (i, t.atFetch op (w + BitVec.ofNat 16 bytes.length)) := by
  cases h with
  | implied i =>
    obtain rfl : t = s := hread
    exact congrArg (fun pc => Except.ok (i, t.atFetch op pc)) (BitVec.add_zero w).symm
  | padded i b => exact absurd rfl hform
  | byte f b =>
    obtain ⟨u, hb, rfl⟩ := hread
    rw [fetchForm, fetchByte_atFetch hb]
    rfl
  | word f v =>
    obtain ⟨u, hlo, u', hhi, rfl⟩ := hread
    simp only [fetchForm, fetchByte_atFetch hlo, fetchByte_atFetch hhi, Run.ok_bind, wordOf_lowByte_highByte]
    exact congrArg (fun pc => Except.ok (f v, t.atFetch op pc)) (add_ofNat_add w 1 1)

/-- Bus reads at PC of bytes that decode to an instruction, BRK's padding byte apart, are the fetch of that instruction (R132, D5). -/
theorem fetchInstr_of_bytesRead {bs : List Byte} {i : Instr} {s t : State} (hdec : decode bs = .ok (i, []))
    (hread : BytesRead s.pc (if i = .brk then bs.take 1 else bs) s t) :
    fetchInstr s = .ok (i, t.atFetch (opcodeOf i) (s.pc + BitVec.ofNat 16 bs.length)) := by
  obtain ⟨op, bytes, rfl, hreads⟩ := decode_inv hdec
  obtain ⟨_, rfl⟩ := hreads.opcode
  have hfetch {u : State} (hop : busRead s.pc s = .ok (opcodeOf i, u)) :
      fetchInstr s = fetchForm (opcodeRow (opcodeOf i)).form (u.atFetch (opcodeOf i) (s.pc + 1)) := by
    have hbyte := fetchByte_atFetch hop s.opcode
    rw [fetchInstr, show fetchByte s = _ from hbyte]
    rfl
  by_cases hi : i = .brk
  · subst hi
    obtain ⟨u, hop, rfl⟩ := hread
    have hone : bytes.length = 1 := by
      have := hreads.length_eq
      rw [hreads.brk_form] at this
      exact (Nat.succ.inj this).symm
    rw [hfetch hop, hreads.brk_form, List.length_cons, hone, ← add_ofNat_add s.pc 1 1]
    rfl
  · rw [if_neg hi] at hread
    obtain ⟨u, hop, hrest⟩ := hread
    rw [hfetch hop, fetchForm_atFetch hreads (fun hp => hi (opcodeRow_padded hp)) hrest, List.length_cons, Nat.add_comm,
      ← add_ofNat_add s.pc 1 bytes.length]
    rfl

/-- Reads of bytes that stand at addresses with no device give those bytes and change nothing. -/
theorem bytesRead_of_peek {s : State} {l : List Byte} {a : Word}
    (h : ∀ k b, l[k]? = some b → peek s (a + BitVec.ofNat 16 k) = some b) : BytesRead a l s s := by
  induction l generalizing a with
  | nil => rfl
  | cons b l ih =>
    have hhead : peek s a = some b := by simpa using h 0 b rfl
    refine ⟨s, busRead_peek hhead, ih fun k b' hb => ?_⟩
    have htail := h (k + 1) b' hb
    rwa [Nat.add_comm, ← add_ofNat_add a 1 k] at htail

/-- The bytes that a fetch of `i` reads, BRK's padding byte apart, where each stands at an address with no device. -/
theorem bytesRead_of_peek_fetched {s : State} {bs : List Byte} {i : Instr}
    (h : ∀ k b, bs[k]? = some b → (i = .brk → k = 0) → peek s (s.pc + BitVec.ofNat 16 k) = some b) :
    BytesRead s.pc (if i = .brk then bs.take 1 else bs) s s := by
  apply bytesRead_of_peek
  intro k b hb
  by_cases hi : i = .brk
  · rw [if_pos hi, List.getElem?_take] at hb
    split at hb
    · exact h k b hb fun _ => by omega
    · cases hb
  · rw [if_neg hi] at hb
    exact h k b hb fun hbrk => absurd hbrk hi

/-! ### The step that dispatches -/

/-- A master step in a free CPU slot runs the instruction fetched, between the PPU's cycle and NMI delivery (R171, D8, D10). -/
theorem step_of_fetch {s0 s u : State} {q : Ppu} {i : Instr} (hirq : IrqCalled s0 s) (hppu : ppuClock s.cart s.ppu = .ok q)
    (hslot : s.master % 3 = 0) (hdma : s.dma.active = false) (hcycles : s.cycles = 0)
    (hfetch : fetchInstr { s with ppu := q } = .ok (i, u)) :
    step s0 = toOutcome (do
      let t ← ofOutcome (exec i u)
      let v ← nmiPart { t with cycles := t.cycles - 1, clockCount := t.clockCount + 1 }
      .ok { v with master := v.master + 1 }) := by
  have hcpu : slotPart { s with ppu := q } = (do
      let t ← ofOutcome (exec i u)
      .ok t.countDown) := by
    rw [slotPart, if_pos hslot, if_neg (by simp [hdma]), cpuClock, dispatchIfDue, if_pos hcycles, dispatch, hfetch]
    rfl
  have hbus : busClock s = (do
      let t ← slotPart { s with ppu := q }
      let v ← nmiPart t
      .ok (v.setMaster (v.master + 1))) := by
    rw [busClock, ppuPart, hppu]
    rfl
  rw [step, masterStep, scheduledIrq_of_irqCalled hirq, Run.ok_bind, hbus, hcpu]
  cases ofOutcome (exec i u) <;> rfl

end Sys2Proof.Machine
end

section
/-! Proofs, part 17: the statements about the fetch, the step that dispatches, and the totality of the dispatch settled. -/

namespace Sys2Proof.Settled

open Sys2Proof.Machine Sys2Proof.Claims

/-- Settles O4: the fetch answers, and what it read and moved is `fetchInstr_inv`. -/
theorem fetchMovesPcPastInstruction : Obligations.FetchMovesPcPastInstruction := by
  intro s hs
  obtain ⟨i, t, h⟩ := fetchInstr_inRange hs
  obtain ⟨bytes, hreads, hframe, hpc⟩ := fetchInstr_inv h
  obtain ⟨hwf, hop⟩ := hreads.opcode
  have hlen : i.length = bytes.length + 1 := by rw [Instr.length, hop, hreads.length_eq]
  refine ⟨i, t, h, hwf, hop, hlen ▸ hpc, ?_⟩
  rw [hframe]
  and_intros <;> rfl

/-- Settles O59: an instruction stops only where a read of its operand or jump pointer does (`exec_stops_iff`). -/
theorem everyInstructionCompletes : Obligations.EveryInstructionCompletes := fun i _ h => exec_inRange h i

/-- Settles O5: bus reads of the instruction's bytes are its fetch, and bytes in RAM or PRG are read without a side effect. -/
theorem stepRunsDecodedInstruction : Obligations.StepRunsDecodedInstruction := by
  refine ⟨fun s0 s q bs i hirq hppu hslot hdma hcycles hdec hpeek => ?_,
    fun s0 s f q bs i hirq hppu hslot hdma hcycles hdec hread => ?_⟩
  · have hread := bytesRead_of_peek_fetched (s := { s with ppu := q }) hpeek
    exact step_of_fetch hirq hppu hslot hdma hcycles (fetchInstr_of_bytesRead hdec hread)
  · exact step_of_fetch hirq hppu hslot hdma hcycles (fetchInstr_of_bytesRead hdec hread)

end Sys2Proof.Settled
end

section
/-! Proofs, part 18: the registers and flags that an instruction writes, and that it writes no others (40_dispatch.md R181, R185; the
Flags lines of files 41 to 46). -/

namespace Sys2Proof.Machine

open Sys2Proof.Claims

/-! ### Flags outside those written -/

section
variable {f : Flag}

theorem flagOf_withFlag_of_not_mem {g : Flag} (h : f ∉ [g]) (p : Byte) (b : Bool) : flagOf (withFlag p g b) f = flagOf p f := by
  rw [flagOf_withFlag, if_neg (by simpa using h)]

theorem flagOf_znByte_of_not_mem (h : f ∉ [Flag.Z, .N]) (p v : Byte) : flagOf (znByte p v) f = flagOf p f := by
  cases f <;> simp_all [flagOf_znByte]

theorem flagOf_adcFlags_of_not_mem (h : f ∉ [Flag.C, .V, .Z, .N]) (p a m : Byte) (c : Bool) :
    flagOf (adcFlags p a m c) f = flagOf p f := by
  cases f <;> simp_all [flagOf_adcFlags]

theorem flagOf_compareFlags_of_not_mem (h : f ∉ [Flag.C, .Z, .N]) (p r m : Byte) :
    flagOf (compareFlags p r m) f = flagOf p f := by
  cases f <;> simp_all [flagOf_compareFlags]

theorem flagOf_bitFlags_of_not_mem (h : f ∉ [Flag.Z, .V, .N]) (p a m : Byte) : flagOf (bitFlags p a m) f = flagOf p f := by
  cases f <;> simp_all [flagOf_bitFlags]

theorem flagOf_shiftFlags_of_not_mem (h : f ∉ [Flag.C, .Z, .N]) (p r : Byte) (c : Bool) :
    flagOf (shiftFlags p r c) f = flagOf p f := by
  cases f <;> simp_all [flagOf_shiftFlags]

end

/-! ### One write at a time -/

/-- `t` is `s` after work of the instruction `i`: a register, a flag or PC that `i` does not write is as it was, and so is the opcode
register. -/
structure OthersKept (i : Instr) (s t : State) : Prop where
  regs : ∀ r, r ∉ destRegs i → regOf t r = regOf s r
  flags : ∀ f, f ∉ destFlags i → t.flag f = s.flag f
  pc : writesPc i = false → t.pc = s.pc
  opcode : t.opcode = s.opcode

/-- `t` is `s` but for what is no register of `regOf`, no flag, PC or opcode register: the latches of a mode, the countdown, and all
that the bus reaches. -/
def RegistersKept (s t : State) : Prop :=
  t = { s with
    addrAbs := t.addrAbs, addrRel := t.addrRel, fetched := t.fetched, cycles := t.cycles, ram := t.ram, padSr0 := t.padSr0
    padSr1 := t.padSr1, dma := t.dma, ppu := t.ppu, cart := t.cart }

theorem ReadFrame.registersKept {s t : State} (h : ReadFrame s t) : RegistersKept s t := by
  obtain ⟨_, _, _, _, _, _, rfl, _⟩ := h
  rfl

theorem WriteFrame.registersKept {s t : State} (h : WriteFrame s t) : RegistersKept s t :=
  Eq.trans h.outside (by rw [h.outside])

section
variable {i : Instr} {s t u : State}

theorem OthersKept.trans (h : OthersKept i s t) (h' : OthersKept i t u) : OthersKept i s u where
  regs := fun r hr => (h'.regs r hr).trans (h.regs r hr)
  flags := fun f hf => (h'.flags f hf).trans (h.flags f hf)
  pc := fun hp => (h'.pc hp).trans (h.pc hp)
  opcode := h'.opcode.trans h.opcode

theorem RegistersKept.others (h : RegistersKept s t) : OthersKept i s t := by
  rw [h]
  exact ⟨fun r _ => by cases r <;> rfl, fun _ _ => rfl, fun _ => rfl, rfl⟩

theorem OthersKept.after (h : OthersKept i t u) (hr : RegistersKept s t) : OthersKept i s u := hr.others.trans h

theorem OthersKept.next (h : OthersKept i s t) (hr : RegistersKept t u) : OthersKept i s u := h.trans hr.others

/-- One register written, which is one of the instruction's own. -/
theorem setReg_others {r : Reg} (hmem : r ∈ destRegs i) (hreg : ∀ r', r' ≠ r → regOf t r' = regOf s r') (hp : t.p = s.p)
    (hpc : t.pc = s.pc) (hop : t.opcode = s.opcode) : OthersKept i s t where
  regs := fun r' hr => hreg r' fun he => hr (he ▸ hmem)
  flags := fun f _ => congrArg (flagOf · f) hp
  pc := fun _ => hpc
  opcode := hop

theorem setA_others (h : .A ∈ destRegs i) (v : Byte) : OthersKept i s (s.setA v) :=
  setReg_others h (fun | .A, hr => absurd rfl hr | .X, _ | .Y, _ | .SP, _ => rfl) rfl rfl rfl

theorem setX_others (h : .X ∈ destRegs i) (v : Byte) : OthersKept i s (s.setX v) :=
  setReg_others h (fun | .X, hr => absurd rfl hr | .A, _ | .Y, _ | .SP, _ => rfl) rfl rfl rfl

theorem setY_others (h : .Y ∈ destRegs i) (v : Byte) : OthersKept i s (s.setY v) :=
  setReg_others h (fun | .Y, hr => absurd rfl hr | .A, _ | .X, _ | .SP, _ => rfl) rfl rfl rfl

theorem setSp_others (h : .SP ∈ destRegs i) (v : Byte) : OthersKept i s (s.setSp v) :=
  setReg_others h (fun | .SP, hr => absurd rfl hr | .A, _ | .X, _ | .Y, _ => rfl) rfl rfl rfl

theorem setPc_others (h : writesPc i = true) (w : Word) : OthersKept i s (s.setPc w) :=
  ⟨fun r _ => by cases r <;> rfl, fun _ _ => rfl, fun hn => by simp [h] at hn, rfl⟩

/-- P written, with the instruction's own flags alone. -/
theorem setP_others {v : Byte} (h : ∀ f, f ∉ destFlags i → flagOf v f = flagOf s.p f) : OthersKept i s (s.setP v) :=
  ⟨fun r _ => by cases r <;> rfl, h, fun _ => rfl, rfl⟩

theorem setP_all_others (h : destFlags i = [.C, .Z, .I, .D, .B, .U, .V, .N]) (v : Byte) : OthersKept i s (s.setP v) :=
  setP_others fun f hf => absurd (by rw [h]; cases f <;> decide) hf

theorem setZN_others (h : destFlags i = [.Z, .N]) (v : Byte) : OthersKept i s (s.setZN v) :=
  setP_others fun _ hf => flagOf_znByte_of_not_mem (h ▸ hf) s.p v

theorem setFlag_others {f : Flag} (h : destFlags i = [f]) (b : Bool) : OthersKept i s (s.setFlag f b) :=
  setP_others fun _ hf => flagOf_withFlag_of_not_mem (h ▸ hf) s.p b

theorem compare_others (h : destFlags i = [.C, .Z, .N]) (r m : Byte) : OthersKept i s (s.compare r m) :=
  setP_others fun _ hf => flagOf_compareFlags_of_not_mem (h ▸ hf) s.p r m

theorem addToA_others (hr : .A ∈ destRegs i) (hf : destFlags i = [.C, .V, .Z, .N]) (m : Byte) : OthersKept i s (s.addToA m) :=
  (setP_others fun _ h => flagOf_adcFlags_of_not_mem (hf ▸ h) s.p s.a m (s.flag .C)).trans (setA_others hr _)

/-! ### The stack -/

theorem push_others {v : Byte} (hsp : .SP ∈ destRegs i) (h : push v s = .ok t) : OthersKept i s t := by
  obtain ⟨u, hw, h⟩ := Run.bind_ok h
  cases h
  exact (setSp_others hsp _).after (busWrite_effect hw).registersKept

theorem pushWord_others {w : Word} (hsp : .SP ∈ destRegs i) (h : pushWord w s = .ok t) : OthersKept i s t := by
  obtain ⟨u, hhi, hlo⟩ := Run.bind_ok h
  exact (push_others hsp hhi).trans (push_others hsp hlo)

theorem pull_others {b : Byte} (hsp : .SP ∈ destRegs i) (h : pull s = .ok (b, t)) : OthersKept i s t :=
  (setSp_others hsp _).next (busRead_effect h).registersKept

theorem pullWord_others {w : Word} (hsp : .SP ∈ destRegs i) (h : pullWord s = .ok (w, t)) : OthersKept i s t := by
  obtain ⟨⟨lo, u⟩, hlo, h⟩ := Run.bind_ok h
  obtain ⟨⟨hi, u'⟩, hhi, h⟩ := Run.bind_ok h
  cases h
  exact (pull_others hsp hlo).trans (pull_others hsp hhi)

/-- BRK's entry writes SP, I and B, and PC. -/
theorem enterBrk_others (h : enterBrk s = .ok t) : OthersKept .brk s t := by
  obtain ⟨u, hpush, h⟩ := Run.bind_ok h
  obtain ⟨u', hstatus, h⟩ := Run.bind_ok h
  obtain ⟨⟨w, u''⟩, hvector, h⟩ := Run.bind_ok h
  cases h
  have hpushed : OthersKept .brk s u' := (pushWord_others (.head _) hpush).trans (push_others (.head _) hstatus)
  have hp : u'.p = s.p := (push_keeps hstatus).1.trans (pushWord_keeps hpush).1
  have hflags : OthersKept .brk u' (u'.setP (withFlag (withFlag s.p .B false) .I true)) := setP_others fun f hf => by
    obtain ⟨hI, hB⟩ : f ≠ .I ∧ f ≠ .B := by simpa [destFlags] using hf
    simp [hp, hI, hB]
  exact (hpushed.trans hflags).trans ((setPc_others rfl w).after (readPair_effect hvector).registersKept)

/-- RTI writes SP, P and PC. -/
theorem returnFromHandler_others (h : returnFromHandler s = .ok t) : OthersKept .rti s t := by
  obtain ⟨⟨v, u⟩, hstatus, h⟩ := Run.bind_ok h
  obtain ⟨⟨w, u'⟩, hword, h⟩ := Run.bind_ok h
  cases h
  have hflags : OthersKept .rti u (u.setP (pulledStatus v)) := setP_all_others rfl _
  exact ((pull_others (.head _) hstatus).trans hflags).trans ((pullWord_others (.head _) hword).trans (setPc_others rfl w))

/-! ### Shapes -/

theorem readOperand_registersKept {o : Operand} {b : Byte} {cross : Bool} (h : readOperand o s = .ok (b, cross, t)) :
    RegistersKept s t := by
  obtain ⟨u, hu, ht⟩ := readOperand_effect h
  rw [ht]
  exact Eq.trans (congrArg (fun v => (v.setAddrAbs t.addrAbs).setFetched b) hu.registersKept) rfl

theorem readInstr_others {op : Byte} {o : Operand} {asks : Bool} {f : Byte → State → State} (h : readInstr op o asks f s = .ok t)
    (hf : ∀ b u, OthersKept i u (f b u)) : OthersKept i s t := by
  obtain ⟨b, cross, u, hr, rfl⟩ := readInstr_inv h
  have hmeaning := (hf b (u.setCycles (baseCycles op))).after rfl
  exact (hmeaning.after (readOperand_registersKept hr)).next rfl

theorem storeInstr_others {op : Byte} {m : Addr} {r : State → Byte} (h : storeInstr op m r s = .ok t) : OthersKept i s t := by
  rw [storeInstr_eq] at h
  exact (busWrite_effect h).registersKept.others.after rfl

theorem rmwInstr_others {op : Byte} {m : Addr} {f : Byte → Byte → Byte × Byte} (h : rmwInstr op m f s = .ok t)
    (hf : ∀ b p g, g ∉ destFlags i → flagOf (f b p).2 g = flagOf p g) : OthersKept i s t := by
  obtain ⟨b, cross, u, hr, hw⟩ := rmwInstr_inv h
  have hflags : OthersKept i (u.setCycles (baseCycles op)) ((u.setCycles (baseCycles op)).setP (f b s.p).2) :=
    setP_others fun g hg => by rw [hf b s.p g hg, State.setCycles_p, readOperand_p hr]
  exact ((hflags.after rfl).after (readOperand_registersKept hr)).next (busWrite_effect hw).registersKept

theorem impliedStart_others (n : Nat) : OthersKept i s (impliedStart n s) := RegistersKept.others rfl

theorem stackInstr_others {op : Byte} {f : State → Run State} (h : stackInstr op f s = .ok t)
    (hf : ∀ u, f u = .ok t → OthersKept i u t) : OthersKept i s t :=
  (impliedStart_others _).trans (hf _ h)

/-- A shift writes A in its accumulator form alone, and C, Z and N. -/
theorem shiftInstr_others {op : Byte} {d : ShiftDst} {f : ShiftFn} (h : shiftInstr op d f s = .ok t)
    (hacc : d = .acc → .A ∈ destRegs i) (hflags : destFlags i = [.C, .Z, .N]) : OthersKept i s t := by
  cases d with
  | acc =>
    cases h
    have hp : OthersKept i s _ := (impliedStart_others (baseCycles op)).trans
      (setP_others fun _ hg => flagOf_shiftFlags_of_not_mem (hflags ▸ hg) s.p (f s.a (s.flag .C)).1 (f s.a (s.flag .C)).2)
    exact hp.trans (setA_others (hacc rfl) _)
  | mem m =>
    rw [shiftInstr] at h
    exact rmwInstr_others h fun _ _ _ hg => flagOf_shiftFlags_of_not_mem (hflags ▸ hg) _ _ _

theorem jumpTarget_registersKept {m : JmpTarget} {w : Word} (h : jumpTarget m s = .ok (w, t)) : RegistersKept s t := by
  cases m with
  | abs w' => cases h; rfl
  | ind w' => exact (readPair_effect h).registersKept

/-- A branch instruction that answers is the branch of R273 on its own flag. -/
theorem exec_branch_inv {d : Byte} {f : Flag} {v : Bool} (h : exec i s = .next t) (hb : branchOf i = some (d, f, v)) :
    branchInstr (opcodeOf i) d (fun u => u.flag f == v) s = .ok t := by
  apply toOutcome_eq_next
  rw [← h]
  cases i
  case bcc | bcs | beq | bmi | bne | bpl | bvc | bvs =>
    cases hb
    simp only [exec, execBcc, execBcs, execBeq, execBmi, execBne, execBpl, execBvc, execBvs, beq_true, beq_false]
  all_goals cases hb

theorem branchInstr_others {op d : Byte} {c : State → Bool} (h : branchInstr op d c s = .ok t) (hpc : writesPc i = true) :
    OthersKept i s t := by
  simp only [branchInstr, Except.ok.injEq] at h
  subst h
  have hcount : OthersKept i s (((s.setCycles (baseCycles op)).setAddrRel (d.signExtend 16)).addCycles
      (branchCycles s.pc (branchTarget s.pc d) (c s))) := RegistersKept.others rfl
  split
  · exact hcount.trans (setPc_others hpc _)
  · exact hcount

end

/-! ### Instructions -/

/-- An instruction writes the registers, flags and PC that its rule names, and no others. -/
theorem exec_others {i : Instr} {s t : State} (h : exec i s = .next t) : OthersKept i s t := by
  cases i
  case lda m | and m | ora m | eor m =>
    exact readInstr_others (toOutcome_eq_next h) fun _ _ => (setA_others (.head _) _).trans (setZN_others rfl _)
  case ldx m => exact readInstr_others (toOutcome_eq_next h) fun _ _ => (setX_others (.head _) _).trans (setZN_others rfl _)
  case ldy m => exact readInstr_others (toOutcome_eq_next h) fun _ _ => (setY_others (.head _) _).trans (setZN_others rfl _)
  case adc m | sbc m => exact readInstr_others (toOutcome_eq_next h) fun _ _ => addToA_others (.head _) rfl _
  case bit m =>
    exact readInstr_others (toOutcome_eq_next h) fun _ _ => setP_others fun _ hf => flagOf_bitFlags_of_not_mem hf _ _ _
  case cmp m | cpx m | cpy m => exact readInstr_others (toOutcome_eq_next h) fun _ _ => compare_others rfl _ _
  case sta m | stx m | sty m => exact storeInstr_others (toOutcome_eq_next h)
  case inc m | dec m => exact rmwInstr_others (toOutcome_eq_next h) fun _ _ _ hf => flagOf_znByte_of_not_mem hf _ _
  case asl d | lsr d | rol d | ror d =>
    exact shiftInstr_others (toOutcome_eq_next h) (fun hd => hd ▸ .head _) rfl
  case txa | tya => cases h; exact (impliedStart_others _).trans ((setA_others (.head _) _).trans (setZN_others rfl _))
  case tax | tsx | inx | dex => cases h; exact (impliedStart_others _).trans ((setX_others (.head _) _).trans (setZN_others rfl _))
  case tay | iny | dey => cases h; exact (impliedStart_others _).trans ((setY_others (.head _) _).trans (setZN_others rfl _))
  case txs => cases h; exact (impliedStart_others _).trans (setSp_others (.head _) _)
  case clc | cld | cli | clv | sec | sed | sei => cases h; exact (impliedStart_others _).trans (setFlag_others rfl _)
  case nop | undef op => cases h; exact impliedStart_others _
  case bcc d | bcs d | beq d | bmi d | bne d | bpl d | bvc d | bvs d => exact branchInstr_others (exec_branch_inv h rfl) rfl
  case pha | php => exact stackInstr_others (toOutcome_eq_next h) fun _ hu => push_others (.head _) hu
  case pla =>
    refine stackInstr_others (toOutcome_eq_next h) fun u hu => ?_
    obtain ⟨⟨b, v⟩, hpull, hu⟩ := Run.bind_ok hu
    cases hu
    exact (pull_others (.tail _ (.head _)) hpull).trans ((setA_others (.head _) b).trans (setZN_others rfl b))
  case plp =>
    refine stackInstr_others (toOutcome_eq_next h) fun u hu => ?_
    obtain ⟨⟨b, v⟩, hpull, hu⟩ := Run.bind_ok hu
    cases hu
    exact (pull_others (.head _) hpull).trans (setP_all_others rfl _)
  case rts =>
    refine stackInstr_others (toOutcome_eq_next h) fun u hu => ?_
    obtain ⟨⟨w, v⟩, hpull, hu⟩ := Run.bind_ok hu
    cases hu
    exact (pullWord_others (.head _) hpull).trans (setPc_others rfl _)
  case jmp m =>
    obtain ⟨⟨w, u⟩, hj, h⟩ := Run.bind_ok (toOutcome_eq_next h)
    cases h
    have hpc : OthersKept (.jmp m) (u.setAddrAbs w) ((u.setAddrAbs w).setPc w) := setPc_others rfl w
    exact ((hpc.after rfl).after (jumpTarget_registersKept hj)).after rfl
  case jsr w =>
    obtain ⟨u, hpush, h⟩ := Run.bind_ok (toOutcome_eq_next h)
    cases h
    have hpushed : OthersKept (.jsr w) _ u := pushWord_others (.head _) hpush
    exact OthersKept.trans (hpushed.after rfl) (setPc_others rfl w)
  case brk => exact (enterBrk_others (toOutcome_eq_next h)).after rfl
  case rti => exact stackInstr_others (toOutcome_eq_next h) fun _ hu => returnFromHandler_others hu

end Sys2Proof.Machine
end

section
/-! Proofs, part 19: the bytes of memory that an instruction stores to, and that it changes no others (20_memory.md R120,
40_dispatch.md R179). -/

namespace Sys2Proof.Machine

open Sys2Proof.Claims

/-- The PPU has the same video memories. -/
def SameVideo (q q' : Ppu) : Prop :=
  q'.nt0 = q.nt0 ∧ q'.nt1 = q.nt1 ∧ q'.pt0 = q.pt0 ∧ q'.pt1 = q.pt1 ∧ q'.pal = q.pal ∧ q'.oam = q.oam

theorem SameVideo.of_eq {q q' : Ppu} (h : q' = q) : SameVideo q q' := by
  rw [h]
  exact ⟨rfl, rfl, rfl, rfl, rfl, rfl⟩

theorem SameVideo.trans {q q' q'' : Ppu} (h : SameVideo q q') (h' : SameVideo q' q'') : SameVideo q q'' := by
  obtain ⟨h1, h2, h3, h4, h5, h6⟩ := h
  obtain ⟨h1', h2', h3', h4', h5', h6'⟩ := h'
  exact ⟨h1'.trans h1, h2'.trans h2, h3'.trans h3, h4'.trans h4, h5'.trans h5, h6'.trans h6⟩

/-- `t` is `s` after bus traffic whose stores are among `stores`: a byte at no location stored to is as it was, and so are the video
memories and CHR if no store is to a PPU port. -/
structure BytesKept (stores : List Word) (s t : State) : Prop where
  banks : t.cart.prgBanks = s.cart.prgBanks
  bytes : ∀ a, (∀ w ∈ stores, locate s.cart a ≠ locate s.cart w) → peek t a = peek s a
  video : (∀ w ∈ stores, ∀ p, locate s.cart w ≠ .port p) → SameVideo s.ppu t.ppu ∧ t.cart.chr = s.cart.chr

section
variable {stores : List Word} {s t u : State}

theorem BytesKept.trans (h : BytesKept stores s t) (h' : BytesKept stores t u) : BytesKept stores s u where
  banks := h'.banks.trans h.banks
  bytes := fun a hn => (h'.bytes a fun w hw => by simpa only [locate_congr h.banks] using hn w hw).trans (h.bytes a hn)
  video := fun hn => by
    obtain ⟨hvideo, hchr⟩ := h.video hn
    obtain ⟨hvideo', hchr'⟩ := h'.video fun w hw p => by simpa only [locate_congr h.banks] using hn w hw p
    exact ⟨hvideo.trans hvideo', hchr'.trans hchr⟩

/-- The registers of the CPU are no memory. -/
theorem CpuOnly.bytes (h : CpuOnly s t) : BytesKept stores s t := by
  rw [h]
  exact ⟨rfl, fun _ _ => rfl, fun _ => ⟨.of_eq rfl, rfl⟩⟩

theorem BytesKept.afterCpu (h : BytesKept stores t u) (hc : CpuOnly s t) : BytesKept stores s u := hc.bytes.trans h

theorem BytesKept.thenCpu (h : BytesKept stores s t) (hc : CpuOnly t u) : BytesKept stores s u := h.trans hc.bytes

/-- A read stores nothing. -/
theorem ReadFrame.bytes (h : ReadFrame s t) : BytesKept stores s t where
  banks := congrArg Cart.prgBanks h.cart
  bytes := fun a _ => h.peek a
  video := fun _ => ⟨by obtain ⟨_, _, _, _, _, _, rfl, _⟩ := h; exact ⟨rfl, rfl, rfl, rfl, rfl, rfl⟩, congrArg Cart.chr h.cart⟩

/-- Of the writes only one to a port reaches CHR. -/
theorem busWrite_chr {a : Word} {v : Byte} (h : busWrite a v s = .ok t) (hn : ∀ p, locate s.cart a ≠ .port p) :
    t.cart.chr = s.cart.chr := by
  rw [busWrite_locate] at h
  cases hl : locate s.cart a with
  | prg off =>
    simp only [hl] at h
    split at h
    · obtain ⟨c, hstore, rfl⟩ := map_eq_ok h
      unfold prgStore at hstore
      split at hstore
      · cases hstore; rfl
      · cases hstore
    · cases h; rfl
  | port p => exact absurd hl (hn p)
  | pad i =>
    rw [hl] at h
    cases h
    unfold padWrite State.setPadSr
    split <;> rfl
  | ram i => rw [hl] at h; cases h; rfl
  | dmaTrigger => rw [hl] at h; cases h; rfl
  | openBus => rw [hl] at h; cases h; rfl

/-- A write changes the byte at its own location at most. -/
theorem busWrite_bytes {a : Word} {v : Byte} (h : busWrite a v s = .ok t) (ha : a ∈ stores) : BytesKept stores s t where
  banks := by rw [(busWrite_effect h).cart]
  bytes := fun _ hn => busWrite_peek h (hn a ha)
  video := fun hn => ⟨.of_eq ((busWrite_devices (reads := []) h ha).ppu (by simpa using hn)), busWrite_chr h (hn a ha)⟩

/-! ### The stack -/

theorem push_bytes {v : Byte} (h : push v s = .ok t) (ha : stackAddr s.sp ∈ stores) :
    BytesKept stores s t ∧ t.sp = s.sp - 1 := by
  obtain ⟨u, hw, h⟩ := Run.bind_ok h
  cases h
  have hsp : u.sp = s.sp := by rw [(busWrite_effect hw).outside]
  exact ⟨(busWrite_bytes hw ha).thenCpu rfl, congrArg (· - 1) hsp⟩

theorem pushWord_bytes {w : Word} (h : pushWord w s = .ok t) (hhi : stackAddr s.sp ∈ stores)
    (hlo : stackAddr (s.sp - 1) ∈ stores) : BytesKept stores s t ∧ t.sp = s.sp - 2 := by
  obtain ⟨u, h1, h2⟩ := Run.bind_ok h
  obtain ⟨hkept, hsp⟩ := push_bytes h1 hhi
  obtain ⟨hkept', hsp'⟩ := push_bytes h2 (hsp ▸ hlo)
  exact ⟨hkept.trans hkept', by rw [hsp', hsp]; exact (sub_sub_lit s.sp).1⟩

/-- BRK's entry stores the three bytes of its frame. -/
theorem enterBrk_bytes (h : enterBrk s = .ok t) : BytesKept (storedTo .brk s) s t := by
  obtain ⟨u, hword, h⟩ := Run.bind_ok h
  obtain ⟨u', hstatus, h⟩ := Run.bind_ok h
  obtain ⟨⟨w, u''⟩, hvector, h⟩ := Run.bind_ok h
  cases h
  obtain ⟨hkept, hsp⟩ := pushWord_bytes (stores := storedTo .brk s) hword (.head _) (.tail _ (.head _))
  obtain ⟨hkept', _⟩ := push_bytes (stores := storedTo .brk s) hstatus (hsp ▸ .tail _ (.tail _ (.head _)))
  exact (hkept.trans hkept').trans (((readPair_effect hvector).bytes.afterCpu rfl).thenCpu rfl)

/-! ### Shapes -/

theorem readOperand_bytes {o : Operand} {b : Byte} {cross : Bool} (h : readOperand o s = .ok (b, cross, t)) :
    BytesKept stores s t := by
  obtain ⟨u, hu, ht⟩ := readOperand_effect h
  exact hu.bytes.thenCpu (by rw [ht]; rfl)

theorem readInstr_bytes {op : Byte} {o : Operand} {asks : Bool} {f : Byte → State → State} (h : readInstr op o asks f s = .ok t)
    (hf : ∀ b u, CpuOnly u (f b u)) : BytesKept stores s t := by
  obtain ⟨b, cross, u, hr, rfl⟩ := readInstr_inv h
  have hstart : BytesKept stores s (u.setCycles (baseCycles op)) := (readOperand_bytes hr).thenCpu rfl
  exact (hstart.thenCpu (hf b _)).thenCpu rfl

theorem storeInstr_bytes {op : Byte} {m : Addr} {r : State → Byte} (h : storeInstr op m r s = .ok t)
    (ha : (addrOf m s).1 ∈ stores) : BytesKept stores s t := by
  rw [storeInstr_eq] at h
  exact (busWrite_bytes h ha).afterCpu rfl

theorem rmwInstr_bytes {op : Byte} {m : Addr} {f : Byte → Byte → Byte × Byte} (h : rmwInstr op m f s = .ok t)
    (ha : (addrOf m s).1 ∈ stores) : BytesKept stores s t := by
  obtain ⟨b, cross, u, hr, hw⟩ := rmwInstr_inv h
  exact (readOperand_bytes hr).trans ((busWrite_bytes hw ha).afterCpu rfl)

theorem shiftInstr_bytes {op : Byte} {d : ShiftDst} {f : ShiftFn} (h : shiftInstr op d f s = .ok t)
    (ha : ∀ m, d = .mem m → (addrOf (rmwAddr m) s).1 ∈ stores) : BytesKept stores s t := by
  cases d with
  | acc => cases h; exact CpuOnly.bytes rfl
  | mem m =>
    rw [shiftInstr] at h
    exact rmwInstr_bytes h (ha m rfl)

theorem jumpTarget_bytes {m : JmpTarget} {w : Word} (h : jumpTarget m s = .ok (w, t)) : BytesKept stores s t := by
  cases m with
  | abs w' => cases h; exact CpuOnly.bytes rfl
  | ind w' => exact (readPair_effect h).bytes

/-! ### Instructions -/

/-- An instruction changes the bytes it stores to at most. -/
theorem exec_bytes {i : Instr} (h : exec i s = .next t) : BytesKept (storedTo i s) s t := by
  cases i
  case lda m | ldx m | ldy m | adc m | sbc m | and m | ora m | eor m | bit m | cmp m | cpx m | cpy m =>
    exact readInstr_bytes (toOutcome_eq_next h) fun _ _ => rfl
  case sta m | stx m | sty m => exact storeInstr_bytes (toOutcome_eq_next h) (.head _)
  case inc m | dec m => exact rmwInstr_bytes (toOutcome_eq_next h) (.head _)
  case asl d | lsr d | rol d | ror d => exact shiftInstr_bytes (toOutcome_eq_next h) fun _ hd => hd ▸ .head _
  case bcc d | bcs d | beq d | bmi d | bne d | bpl d | bvc d | bvs d =>
    exact (branchInstr_cpuOnly (exec_branch_inv h rfl)).bytes
  case pha | php => exact (push_bytes (toOutcome_eq_next h) (.head _)).1.afterCpu rfl
  case pla | plp | rts | rti =>
    simp only [exec, execPla, execPlp, execRts, execRti, stackInstr, pull_eq, pullWord_eq, returnFromHandler_eq, Run.ok_bind,
      toOutcome_ok] at h
    cases h
    exact CpuOnly.bytes rfl
  case jmp m =>
    obtain ⟨⟨w, u⟩, hj, h⟩ := Run.bind_ok (toOutcome_eq_next h)
    cases h
    exact ((jumpTarget_bytes hj).afterCpu rfl).thenCpu rfl
  case jsr w =>
    obtain ⟨u, hpush, h⟩ := Run.bind_ok (toOutcome_eq_next h)
    cases h
    exact BytesKept.thenCpu ((pushWord_bytes hpush (.head _) (.tail _ (.head _))).1.afterCpu rfl) rfl
  case brk => exact (enterBrk_bytes (toOutcome_eq_next h)).afterCpu rfl
  all_goals
    cases h
    exact CpuOnly.bytes rfl

end

end Sys2Proof.Machine
end

section
/-! Proofs, part 20: the frames of an instruction settled. -/

namespace Sys2Proof.Settled

open Sys2Proof.Machine Sys2Proof.Claims

/-- Settles O26: `exec_others` for what the instruction names, and `exec_busFrame` for what no instruction reaches. -/
theorem registerAndFlagFrame : Obligations.RegisterAndFlagFrame := by
  intro i s t h
  obtain ⟨hregs, hflags, hpc, hop⟩ := exec_others h
  have hbus := exec_busFrame h
  exact ⟨hregs, hflags, hpc, hop, hbus.clockCount, hbus.master, hbus.params, hbus.irqEvents, hbus.resets⟩

/-- Settles O27: the bytes by the shapes of the instructions (`exec_bytes`); the cartridge's size is in the frame of all bus traffic. -/
theorem memoryFrame : Obligations.MemoryFrame := by
  intro i s t h
  have hbytes := exec_bytes h
  have hbus := exec_busFrame h
  refine ⟨hbytes.bytes, fun hn => ?_, hbus.prgBanks, hbus.chrBanks, hbus.mirroring⟩
  obtain ⟨⟨hnt0, hnt1, hpt0, hpt1, hpal, hoam⟩, hchr⟩ := hbytes.video hn
  exact ⟨hnt0, hnt1, hpt0, hpt1, hpal, hoam, hchr⟩

end Sys2Proof.Settled
end

section
/-! Proofs, part 21: listed encodings, the flags of `setZN`, and what an instruction leaves that reads an operand or stores a register
(30_encoding.md R147, 40_dispatch.md R173, 41_load_store_transfer.md). -/

namespace Sys2Proof.Machine

open Sys2Proof.Claims

/-- Listed encodings, the opcodes apart from the base counts of those opcodes. -/
theorem encodingsAre_of_columns {l : List (Instr × Byte × Nat)} (hop : l.map (fun e => opcodeOf e.1) = l.map (fun e => e.2.1))
    (hcycles : ∀ e ∈ l.map Prod.snd, baseCycles e.1 = e.2) : EncodingsAre l :=
  fun _ he => ⟨List.map_inj_left.mp hop _ he, hcycles _ (List.mem_map_of_mem he)⟩

/-- `setZN` writes Z and N, each with its value, and no other flag (R13). -/
theorem flagsWritten_znByte (p v : Byte) : FlagsWritten p (znByte p v) (zn v) := by
  intro f
  rw [flagOf_znByte]
  cases f <;> rfl

section
variable {i : Instr} {s : State}

/-- An operation on an operand answers when no cartridge access can be out of range, with the state its operation leaves and the cycle
that the mode and the operation both ask for. -/
theorem exec_of_readInstr {op : Byte} {o : Operand} {asks : Bool} {f : Byte → State → State} (hs : s.cart.inRange)
    (hmeaning : exec i s = toOutcome (readInstr op o asks f s)) :
    ∃ b cross t, readOperand o s = .ok (b, cross, t) ∧
      exec i s = .next ((f b (t.setCycles (baseCycles op))).addCycles (asks && cross).toNat) := by
  obtain ⟨b, cross, t, hread⟩ := readOperand_inRange hs o
  exact ⟨b, cross, t, hread, by rw [hmeaning, readInstr_eq hread, Bool.and_comm, toOutcome_ok]⟩

/-- A load answers when no cartridge access can be out of range, and the Z and N it sets are those of the operand over the flags from
before the operand was read. -/
theorem exec_of_load {op : Byte} {o : Operand} {load : State → Byte → State} (hs : s.cart.inRange)
    (hmeaning : exec i s = toOutcome (readInstr op o true (fun b t => (load t b).setZN b) s)) :
    ∃ b cross t, readOperand o s = .ok (b, cross, t) ∧ FlagsWritten s.p (znByte t.p b) (zn b) ∧
      exec i s = .next (((load (t.setCycles (baseCycles op)) b).setZN b).addCycles cross.toNat) := by
  obtain ⟨b, cross, t, hread, hnext⟩ := exec_of_readInstr hs hmeaning
  exact ⟨b, cross, t, hread, by rw [readOperand_p hread]; exact flagsWritten_znByte s.p b, hnext⟩

/-- A store answers when there is a program bank: it is one write at the effective address, which changes no register and adds nothing
to the base count. -/
theorem exec_of_storeInstr {op : Byte} {m : Addr} {r : State → Byte} (hs : 1 ≤ s.cart.prgBanks)
    (hmeaning : exec i s = toOutcome (storeInstr op m r s)) :
    ∃ t, busWrite (addrOf m s).1 (r ((s.setCycles (baseCycles op)).setAddrAbs (addrOf m s).1))
        ((s.setCycles (baseCycles op)).setAddrAbs (addrOf m s).1) = .ok t ∧
      exec i s = .next t ∧ SameRegisters s t ∧ t.cycles = baseCycles op := by
  obtain ⟨t, hwrite⟩ := busWrite_ok (s := (s.setCycles (baseCycles op)).setAddrAbs (addrOf m s).1) hs (addrOf m s).1
    (r ((s.setCycles (baseCycles op)).setAddrAbs (addrOf m s).1))
  have hframe := busWrite_effect hwrite
  refine ⟨t, hwrite, by rw [hmeaning, storeInstr_eq, hwrite, toOutcome_ok], ?_, hframe.cycles⟩
  rw [hframe.outside]
  exact ⟨rfl, rfl, rfl, rfl, rfl, rfl⟩

end

end Sys2Proof.Machine
end

section
/-! Proofs, part 22: the statements about loads, stores and transfers settled. -/

namespace Sys2Proof.Settled

open Sys2Proof.Machine Sys2Proof.Claims

/-- Settles O7: each form is a load of the register (`exec_of_load`). -/
theorem loadResults : Obligations.LoadResults := by
  refine ⟨fun _ _ => encodingsAre_of_columns rfl (by simp only [List.map]; decide), fun s hs => ?_⟩
  refine ⟨fun m => ?_, fun m => ?_, fun m => ?_⟩
  · obtain ⟨b, cross, t, h⟩ := exec_of_load (i := .lda m) (load := State.setA) hs rfl
    exact ⟨b, cross, t, _, h⟩
  · obtain ⟨b, cross, t, h⟩ := exec_of_load (i := .ldx m) (load := State.setX) hs rfl
    exact ⟨b, cross, t, _, h⟩
  · obtain ⟨b, cross, t, h⟩ := exec_of_load (i := .ldy m) (load := State.setY) hs rfl
    exact ⟨b, cross, t, _, h⟩

/-- Settles O8: each form is one write of the register (`exec_of_storeInstr`). -/
theorem storeResults : Obligations.StoreResults :=
  ⟨fun _ _ => encodingsAre_of_columns rfl (by simp only [List.map]; decide), fun _ hs =>
    ⟨fun m => exec_of_storeInstr (i := .sta m) (r := State.a) hs rfl,
      fun m => exec_of_storeInstr (i := .stx m) (r := State.x) hs rfl,
      fun m => exec_of_storeInstr (i := .sty m) (r := State.y) hs rfl⟩⟩

/-- Settles O9: all but TXS end with `setZN` (`flagsWritten_znByte`); the states are the meanings evaluated. -/
theorem transferAndIndexResults : Obligations.TransferAndIndexResults := by
  refine ⟨encodingsAre_of_columns rfl (by decide), fun s => ?_⟩
  refine ⟨?tax, ?tay, ?txa, ?tya, ?tsx, ?txs, ?inx, ?iny, ?dex, ?dey⟩
  case txs => rfl
  all_goals exact ⟨_, flagsWritten_znByte s.p _, rfl⟩

end Sys2Proof.Settled
end

section
/-! Proofs, part 23: the status bytes pushed and pulled, and what an instruction leaves that pushes or pulls one byte (42_stack.md R220
to R224, 92_eei_decisions.md D3). -/

namespace Sys2Proof.Machine

open Sys2Proof.Claims

/-- A pushed status has B and U as 1 and every other flag as it is in P (R24, D3). -/
theorem flagsWritten_pushedStatus (p : Byte) : FlagsWritten p (pushedStatus p) [(.B, true), (.U, true)] := by
  intro f
  rw [flagOf_pushedStatus]
  cases f <;> rfl

/-- P from a pulled status has B as 0, U as 1 and every other flag as it is in the byte (R24, D3). -/
theorem flagsWritten_pulledStatus (v : Byte) : FlagsWritten v (pulledStatus v) [(.B, false), (.U, true)] := by
  intro f
  rw [flagOf_pulledStatus]
  cases f <;> rfl

section
variable {i : Instr} {s : State} {op : Byte}

/-- A stack instruction that pushes one byte answers in every state. -/
theorem exec_of_push {byte : State → Byte}
    (hmeaning : exec i s = toOutcome (stackInstr op (fun t => push (byte t) t) s)) :
    exec i s = .next { impliedStart (baseCycles op) s with
      ram := s.ram.write (stackIndex s.sp) (byte (impliedStart (baseCycles op) s)), sp := s.sp - 1 } := by
  rw [hmeaning, stackInstr, push_eq, toOutcome_ok]
  rfl

/-- A stack instruction that pulls one byte answers in every state, with what it makes of the byte and of the state past the pull. -/
theorem exec_of_pull {use : Byte → State → State}
    (hmeaning : exec i s = toOutcome (stackInstr op (fun t => do
      let (b, u) ← pull t
      .ok (use b u)) s)) :
    exec i s = .next (use (s.ram.read (stackIndex (s.sp + 1))) { impliedStart (baseCycles op) s with sp := s.sp + 1 }) := by
  rw [hmeaning, stackInstr, pull_eq, Run.ok_bind, toOutcome_ok]
  rfl

end

end Sys2Proof.Machine
end

section
/-! Proofs, part 24: the statement about the stack instructions settled. -/

namespace Sys2Proof.Settled

open Sys2Proof.Machine Sys2Proof.Claims

/-- Settles O10: PHA and PHP push one byte (`exec_of_push`), PLA and PLP pull one (`exec_of_pull`). -/
theorem stackResults : Obligations.StackResults := by
  refine ⟨encodingsAre_of_columns rfl (by decide), fun s => ⟨?pha, ?php, ?pulls⟩⟩
  case pha => exact exec_of_push (i := .pha) (byte := State.a) rfl
  case php =>
    exact ⟨pushedStatus s.p, flagsWritten_pushedStatus s.p, rfl, exec_of_push (i := .php) (byte := fun t => pushedStatus t.p) rfl⟩
  case pulls =>
    rintro v rfl
    refine ⟨⟨_, flagsWritten_znByte s.p _, ?pla⟩, ⟨_, flagsWritten_pulledStatus _, rfl, ?plp⟩⟩
    case pla => exact exec_of_pull (i := .pla) (use := fun b u => (u.setA b).setZN b) rfl
    case plp => exact exec_of_pull (i := .plp) (use := fun b u => u.setP (pulledStatus b)) rfl

end Sys2Proof.Settled
end

section
/-! Proofs, part 25: the addition of ADC and SBC, as unsigned and as signed numbers, and the flags of the arithmetic instructions
(43_arith_logic.md R231, R232, R236, R237). -/

namespace Sys2Proof.Machine

open Sys2Proof.Claims

/-! ### The sum -/

section
variable (a m : Byte) (c : Bool)

theorem adcResult_toNat : (adcResult a m c).toNat = (a.toNat + m.toNat + c.toNat) % 256 := BitVec.toNat_ofNat _ _

/-- The mask 0x80 keeps the sign bit alone. -/
theorem and_signMask_ne_zero (v : Byte) : ((v &&& 0x80#8) != 0#8) = v.getLsbD 7 := by revert v; decide

/-- V is the sign bit of R231's formula. -/
theorem adcOverflow_eq_bit : adcOverflow a m c = (~~~(a ^^^ m) &&& (a ^^^ adcResult a m c)).getLsbD 7 := and_signMask_ne_zero _

/-- V is set when A and the operand have one sign and the result the other (R231). -/
theorem adcOverflow_iff_signs :
    adcOverflow a m c = true ↔ (a.toInt < 0 ↔ m.toInt < 0) ∧ ¬ (a.toInt < 0 ↔ (adcResult a m c).toInt < 0) := by
  have hmsb : adcOverflow a m c = (~~~(a ^^^ m) &&& (a ^^^ adcResult a m c)).msb := by
    rw [adcOverflow_eq_bit, BitVec.msb_eq_getLsbD_last]
  rw [hmsb, BitVec.msb_and, BitVec.msb_not, BitVec.msb_xor, BitVec.msb_xor]
  simp [BitVec.msb_eq_toInt]

/-- The result, read as signed, is the exact signed sum up to a multiple of 256. -/
theorem adcResult_toInt : (adcResult a m c).toInt = (a.toInt + m.toInt + c.toNat).bmod 256 := by
  rw [adcResult, BitVec.toInt_ofNat']
  simp [adcSum, BitVec.toInt_eq_toNat_bmod, Int.add_assoc, Int.add_left_comm (a.toNat : Int)]

/-- A signed sum that fits in 8 bits is the result read as signed. -/
theorem adcResult_toInt_of_fits (h : -128 ≤ a.toInt + m.toInt + c.toNat ∧ a.toInt + m.toInt + c.toNat ≤ 127) :
    (adcResult a m c).toInt = a.toInt + m.toInt + c.toNat := by
  rw [adcResult_toInt]
  exact Int.bmod_eq_of_le (by omega) (by omega)

/-- V is set exactly when the exact signed sum does not fit in 8 bits. -/
theorem adcOverflow_iff :
    adcOverflow a m c = true ↔ a.toInt + m.toInt + c.toNat < -128 ∨ 127 < a.toInt + m.toInt + c.toNat := by
  have ha := a.toInt_lt; have ha' := a.le_toInt
  have hm := m.toInt_lt; have hm' := m.le_toInt
  have hc := c.toNat_le
  rw [adcOverflow_iff_signs, adcResult_toInt, Int.bmod_def]
  omega

end

/-! ### The complement -/

/-- The complement SBC adds, as an unsigned number (R232). -/
theorem toNat_complement (m : Byte) : (m ^^^ 0xFF).toNat = 255 - m.toNat := by
  rw [show m ^^^ 0xFF = ~~~m from BitVec.xor_allOnes, BitVec.toNat_not]

/-- The complement SBC adds, as a signed number (R232). -/
theorem toInt_complement (m : Byte) : (m ^^^ 0xFF).toInt = -m.toInt - 1 := by
  have hm := m.isLt
  rw [BitVec.toInt_eq_toNat_cond, BitVec.toInt_eq_toNat_cond, toNat_complement]
  split <;> split <;> omega

/-- Adding the complement subtracts the operand and the borrow, modulo 256 (R232). -/
theorem adcResult_complement_toNat (a m : Byte) (c : Bool) :
    ((adcResult a (m ^^^ 0xFF) c).toNat : Int) = ((a.toNat : Int) - m.toNat - (1 - c.toNat)) % 256 := by
  have hm := m.isLt
  rw [adcResult_toNat, toNat_complement]
  omega

/-- Adding the complement carries when no borrow is needed (R232). -/
theorem adcSum_complement_carry (a m : Byte) (c : Bool) : adcSum a (m ^^^ 0xFF) c > 0xFF ↔ m.toNat + 1 ≤ a.toNat + c.toNat := by
  have hm := m.isLt
  rw [adcSum, toNat_complement]
  omega

/-! ### Flags -/

/-- ADC writes C, V, Z and N, and no other flag (R231). -/
theorem flagsWritten_adcFlags (p a m : Byte) (c : Bool) :
    FlagsWritten p (adcFlags p a m c) ([(.C, decide (adcSum a m c > 0xFF)),
      (.V, (~~~(a ^^^ m) &&& (a ^^^ adcResult a m c)).getLsbD 7)] ++ zn (adcResult a m c)) := by
  intro f
  rw [flagOf_adcFlags, adcOverflow_eq_bit]
  cases f <;> rfl

/-- A compare writes C, Z and N, and no other flag (R237). -/
theorem flagsWritten_compareFlags (p r m : Byte) : FlagsWritten p (compareFlags p r m) (comparison r m) := by
  intro f
  rw [flagOf_compareFlags]
  cases f <;> rfl

/-- BIT writes Z, N and V, and no other flag (R236). -/
theorem flagsWritten_bitFlags (p a m : Byte) :
    FlagsWritten p (bitFlags p a m) [(.Z, (a &&& m) == 0), (.N, m.getLsbD 7), (.V, m.getLsbD 6)] := by
  intro f
  rw [flagOf_bitFlags]
  cases f <;> rfl

end Sys2Proof.Machine
end

section
/-! Proofs, part 26: what an instruction leaves that adds its operand to A, combines it with A, compares a register with it, or counts
a byte of memory up or down (43_arith_logic.md R231 to R241, R244). -/

namespace Sys2Proof.Machine

open Sys2Proof.Claims

/-- Reading an operand leaves the registers as they were. -/
theorem readOperand_regOf {o : Operand} {s t : State} {b : Byte} {cross : Bool} (h : readOperand o s = .ok (b, cross, t)) (r : Reg) :
    regOf t r = regOf s r := by
  rw [readOperand_registersKept h]
  cases r <;> rfl

section
variable {i : Instr} {s t : State} {op b : Byte} {o : Operand} {cross asks : Bool} (hread : readOperand o s = .ok (b, cross, t))
include hread

/-- An operation on an operand that was read. -/
theorem exec_of_readOperand {f : Byte → State → State} (hmeaning : exec i s = toOutcome (readInstr op o asks f s)) :
    exec i s = .next ((f b (t.setCycles (baseCycles op))).addCycles (asks && cross).toNat) := by
  rw [hmeaning, readInstr_eq hread, Bool.and_comm, toOutcome_ok]

/-- ADC's addition to A, of what `addend` makes of the operand. -/
theorem exec_of_addToA {addend : Byte → Byte}
    (hmeaning : exec i s = toOutcome (readInstr op o asks (fun b t => t.addToA (addend b)) s)) :
    exec i s = .next { t with
      a := adcResult s.a (addend b) (s.flag .C), p := adcFlags s.p s.a (addend b) (s.flag .C)
      cycles := baseCycles op + (asks && cross).toNat } := by
  have ha : t.a = s.a := readOperand_regOf hread .A
  rw [State.flag, ← ha, ← readOperand_p hread]
  exact exec_of_readOperand hread hmeaning

/-- A logic operation of A and the operand. -/
theorem exec_of_logic {g : Byte → Byte → Byte}
    (hmeaning : exec i s = toOutcome (readInstr op o asks (fun b t => (t.setA (g t.a b)).setZN (g t.a b)) s)) :
    exec i s = .next { t with
      a := g s.a b, p := znByte s.p (g s.a b), cycles := baseCycles op + (asks && cross).toNat } := by
  have ha : t.a = s.a := readOperand_regOf hread .A
  rw [← ha, ← readOperand_p hread]
  exact exec_of_readOperand hread hmeaning

/-- BIT's test of the operand against A. -/
theorem exec_of_bitTest (hmeaning : exec i s = toOutcome (readInstr op o asks (fun b t => t.setP (bitFlags t.p t.a b)) s)) :
    exec i s = .next { t with p := bitFlags s.p s.a b, cycles := baseCycles op + (asks && cross).toNat } := by
  have ha : t.a = s.a := readOperand_regOf hread .A
  rw [← ha, ← readOperand_p hread]
  exact exec_of_readOperand hread hmeaning

/-- After ADC's addition, V says whether the exact signed sum fits in 8 bits, and A, read as signed, is that sum where it fits. -/
theorem addToA_signed {addend : Byte → Byte} {u : State} {sum : Int}
    (hmeaning : exec i s = toOutcome (readInstr op o asks (fun b t => t.addToA (addend b)) s)) (hnext : exec i s = .next u)
    (hsum : s.a.toInt + (addend b).toInt + (s.flag .C).toNat = sum) :
    (u.flag .V = true ↔ sum < -128 ∨ 127 < sum) ∧ (u.flag .V = false → u.a.toInt = sum) := by
  rw [exec_of_addToA hread hmeaning] at hnext
  cases hnext
  subst hsum
  have hflag : flagOf (adcFlags s.p s.a (addend b) (s.flag .C)) .V = adcOverflow s.a (addend b) (s.flag .C) := flagOf_adcFlags ..
  have hoverflow := adcOverflow_iff s.a (addend b) (s.flag .C)
  rw [← hflag] at hoverflow
  refine ⟨hoverflow, fun hclear => adcResult_toInt_of_fits s.a (addend b) (s.flag .C) ?_⟩
  have hfits := mt hoverflow.mpr (Bool.eq_false_iff.mp hclear)
  omega

end

/-- A compare of a register with its operand answers when no cartridge access can be out of range. -/
theorem exec_of_compare {i : Instr} {s : State} {op : Byte} {o : Operand} {asks : Bool} {r : Reg} (hs : s.cart.inRange)
    (hmeaning : exec i s = toOutcome (readInstr op o asks (fun b t => t.compare (regOf t r) b) s)) :
    ∃ b cross t p, readOperand o s = .ok (b, cross, t) ∧ FlagsWritten s.p p (comparison (regOf s r) b) ∧
      exec i s = .next { t with p := p, cycles := baseCycles op + (asks && cross).toNat } := by
  obtain ⟨b, cross, t, hread⟩ := readOperand_inRange hs o
  have hcycles : regOf (t.setCycles (baseCycles op)) r = regOf t r := by cases r <;> rfl
  refine ⟨b, cross, t, _, hread, flagsWritten_compareFlags s.p (regOf s r) b, ?_⟩
  rw [← readOperand_regOf hread, ← readOperand_p hread, ← hcycles]
  exact exec_of_readOperand hread hmeaning

/-- A read-modify-write answers when no cartridge access can be out of range: the read of its operand is followed by one write of the
new byte at the same address. -/
theorem exec_of_rmwInstr {i : Instr} {s t : State} {op b : Byte} {m : Addr} {cross : Bool} {f : Byte → Byte → Byte × Byte}
    (hs : s.cart.inRange) (hread : readOperand (.mem m) s = .ok (b, cross, t))
    (hmeaning : exec i s = toOutcome (rmwInstr op m f s)) :
    ∃ u, exec i s = .next u ∧
      busWrite (addrOf m s).1 (f b s.p).1 { t with p := (f b s.p).2, cycles := baseCycles op } = .ok u := by
  have hbanks : 1 ≤ t.cart.prgBanks := by rw [readOperand_cart hread]; exact hs.1
  obtain ⟨u, hwrite⟩ := busWrite_ok (s := (t.setCycles (baseCycles op)).setP (f b s.p).2) hbanks (addrOf m s).1 (f b s.p).1
  exact ⟨u, by rw [hmeaning, rmwInstr_eq hread, hwrite, toOutcome_ok], hwrite⟩

end Sys2Proof.Machine
end

section
/-! Proofs, part 27: the statements about arithmetic and logic settled. -/

namespace Sys2Proof.Settled

open Sys2Proof.Machine Sys2Proof.Claims

/-- Settles O11: ADC adds its operand (`exec_of_addToA`). -/
theorem adcResult : Obligations.AdcResult := by
  refine ⟨fun _ _ => encodingsAre_of_columns rfl (by simp only [List.map]; decide), fun s m hs => ?_⟩
  obtain ⟨b, cross, t, hread⟩ := readOperand_inRange hs (srcOperand m)
  exact ⟨b, cross, t, _, _, hread, adcResult_toNat s.a b (s.flag .C), flagsWritten_adcFlags s.p s.a b (s.flag .C),
    exec_of_addToA (i := .adc m) (addend := fun b => b) hread rfl⟩

/-- Settles O12: SBC adds the complement of its operand (`exec_of_addToA`), which subtracts it (`adcResult_complement_toNat`) and carries
when no borrow is needed (`adcSum_complement_carry`). -/
theorem sbcResult : Obligations.SbcResult := by
  refine ⟨fun _ _ => encodingsAre_of_columns rfl (by simp only [List.map]; decide), fun s m hs => ?_⟩
  obtain ⟨b, cross, t, hread⟩ := readOperand_inRange hs (srcOperand m)
  have hflags := flagsWritten_adcFlags s.p s.a (b ^^^ 0xFF) (s.flag .C)
  rw [decide_eq_decide.mpr (adcSum_complement_carry s.a b (s.flag .C))] at hflags
  exact ⟨b, cross, t, _, _, hread, adcResult_complement_toNat s.a b (s.flag .C), hflags,
    exec_of_addToA (i := .sbc m) (addend := fun b => b ^^^ 0xFF) hread rfl⟩

/-- Settles O13: V of both instructions is the overflow of an addition (`adcOverflow_iff`), for SBC of the complement, whose signed value
is `-M - 1` (`toInt_complement`). -/
theorem overflowIsSigned : Obligations.OverflowIsSigned := by
  intro s m b cross s1 t hread
  refine ⟨fun hadc => ?adc, fun hsbc => ?sbc⟩
  case adc => exact addToA_signed (i := .adc m) (addend := fun b => b) hread rfl hadc rfl
  case sbc =>
    refine addToA_signed (i := .sbc m) (addend := fun b => b ^^^ 0xFF) hread rfl hsbc ?_
    rw [toInt_complement]
    omega

/-- Settles O14: each operation is one of A and the operand (`exec_of_logic`). -/
theorem logicResults : Obligations.LogicResults := by
  refine ⟨fun _ _ => encodingsAre_of_columns rfl (by simp only [List.map]; decide), fun s m hs => ?_⟩
  obtain ⟨b, cross, t, hread⟩ := readOperand_inRange hs (srcOperand m)
  exact ⟨b, cross, t, hread,
    ⟨_, flagsWritten_znByte s.p _, exec_of_logic (i := .and m) (g := (· &&& ·)) hread rfl⟩,
    ⟨_, flagsWritten_znByte s.p _, exec_of_logic (i := .ora m) (g := (· ||| ·)) hread rfl⟩,
    ⟨_, flagsWritten_znByte s.p _, exec_of_logic (i := .eor m) (g := (· ^^^ ·)) hread rfl⟩⟩

/-- Settles O15: BIT sets flags from A and the operand, and each compare is of its own register (`exec_of_compare`). -/
theorem testAndCompareResults : Obligations.TestAndCompareResults := by
  refine ⟨fun _ _ => encodingsAre_of_columns rfl (by simp only [List.map]; decide), fun s hs => ?_⟩
  refine ⟨fun m => ?bit, fun m => ?cmp, fun m => ?cpx, fun m => ?cpy⟩
  case bit =>
    obtain ⟨b, cross, t, hread⟩ := readOperand_inRange hs (bitOperand m)
    exact ⟨b, cross, t, _, hread, flagsWritten_bitFlags s.p s.a b, exec_of_bitTest (i := .bit m) hread rfl⟩
  case cmp => exact exec_of_compare (i := .cmp m) (r := .A) hs rfl
  case cpx => exact exec_of_compare (i := .cpx m) (r := .X) hs rfl
  case cpy => exact exec_of_compare (i := .cpy m) (r := .Y) hs rfl

/-- Settles O16: each is one read and one write at the effective address (`exec_of_rmwInstr`). -/
theorem memoryIncDecResults : Obligations.MemoryIncDecResults := by
  refine ⟨fun _ _ => encodingsAre_of_columns rfl (by simp only [List.map]; decide), fun s m hs => ?_⟩
  obtain ⟨b, cross, t, hread⟩ := readOperand_inRange hs (.mem (rmwAddr m))
  obtain ⟨u, hinc⟩ := exec_of_rmwInstr (i := .inc m) (f := fun b p => (b + 1, znByte p (b + 1))) hs hread rfl
  obtain ⟨v, hdec⟩ := exec_of_rmwInstr (i := .dec m) (f := fun b p => (b - 1, znByte p (b - 1))) hs hread rfl
  exact ⟨b, cross, t, hread, ⟨_, u, flagsWritten_znByte s.p _, hinc⟩, ⟨_, v, flagsWritten_znByte s.p _, hdec⟩⟩

end Sys2Proof.Settled
end

section
/-! Proofs, part 28: the results of the shifts and rotates as numbers, their flags, and what an instruction leaves that shifts A or a
byte of memory (44_shift_rotate.md R260 to R264). -/

namespace Sys2Proof.Machine

open Sys2Proof.Claims

/-! ### Results -/

section
variable (m : Byte) (c : Bool)

/-- ASL doubles its operand (R260). -/
theorem aslFn_toNat : (aslFn m c).1.toNat = (2 * m.toNat) % 256 := by
  rw [aslFn, BitVec.toNat_shiftLeft, Nat.shiftLeft_eq, Nat.mul_comm]

/-- LSR halves its operand (R261). -/
theorem lsrFn_toNat : (lsrFn m c).1.toNat = m.toNat / 2 := by
  rw [lsrFn, BitVec.toNat_ushiftRight, Nat.shiftRight_eq_div_pow]

/-- ROL doubles its operand and adds the carry in: the doubled operand has bit 0 clear (R262). -/
theorem rolFn_toNat : (rolFn m c).1.toNat = (2 * m.toNat + c.toNat) % 256 := by
  cases c with
  | false => exact (congrArg BitVec.toNat BitVec.or_zero).trans (aslFn_toNat m false)
  | true =>
    have hclear : m <<< 1 &&& 0x01#8 = 0 := by ext i hi; simp; omega
    have hsum : m <<< 1 ||| 0x01#8 = m <<< 1 + 0x01#8 := (BitVec.add_eq_or_of_and_eq_zero _ _ hclear).symm
    change (m <<< 1 ||| 0x01#8).toNat = _
    simp [hsum, BitVec.toNat_add, Nat.shiftLeft_eq, Nat.mul_comm]

/-- ROR halves its operand and adds the carry in as 128: the halved operand has bit 7 clear (R263). -/
theorem rorFn_toNat : (rorFn m c).1.toNat = 128 * c.toNat + m.toNat / 2 := by
  cases c with
  | false => simp [rorFn, Nat.shiftRight_eq_div_pow]
  | true =>
    have hclear : m.toNat / 2 < 2 ^ 7 := by omega
    simpa [rorFn, Nat.shiftRight_eq_div_pow] using (Nat.two_pow_add_eq_or_of_lt hclear 1).symm

end

/-- A shift writes C, Z and N, and no other flag (R260 to R263). -/
theorem flagsWritten_shiftFlags (p r : Byte) (c : Bool) : FlagsWritten p (shiftFlags p r c) ([(.C, c)] ++ zn r) := by
  intro f
  rw [flagOf_shiftFlags]
  cases f <;> rfl

/-! ### Meanings -/

/-- `f` is the shift that the instructions `mk d` make: the model runs them with it, and its result and carry out are those of the
rules. -/
structure ShiftsBy (mk : ShiftDst → Instr) (f : ShiftFn) : Prop where
  meaning (d : ShiftDst) (s : State) : exec (mk d) s = toOutcome (shiftInstr (opcodeOf (mk d)) d f s)
  result (d : ShiftDst) (m : Byte) (c : Bool) : (f m c).1.toNat = (shiftOf (mk d) m c).1
  carry (d : ShiftDst) (m : Byte) (c : Bool) : (f m c).2 = (shiftOf (mk d) m c).2
  accCycles : baseCycles (opcodeOf (mk .acc)) = 2

theorem asl_shiftsBy : ShiftsBy .asl aslFn :=
  ⟨fun _ _ => rfl, fun _ => aslFn_toNat, fun _ _ _ => rfl, by decide⟩

theorem lsr_shiftsBy : ShiftsBy .lsr lsrFn :=
  ⟨fun _ _ => rfl, fun _ => lsrFn_toNat, fun _ _ _ => rfl, by decide⟩

theorem rol_shiftsBy : ShiftsBy .rol rolFn :=
  ⟨fun _ _ => rfl, fun _ => rolFn_toNat, fun _ _ _ => rfl, by decide⟩

theorem ror_shiftsBy : ShiftsBy .ror rorFn :=
  ⟨fun _ _ => rfl, fun _ => rorFn_toNat, fun _ _ _ => rfl, by decide⟩

section
variable {mk : ShiftDst → Instr} {f : ShiftFn}

/-- Each of the four mnemonics has its shift. -/
theorem exists_shiftsBy (hmk : mk ∈ [Instr.asl, Instr.lsr, Instr.rol, Instr.ror]) : ∃ f, ShiftsBy mk f := by
  simp only [List.mem_cons, List.not_mem_nil, or_false] at hmk
  obtain rfl | rfl | rfl | rfl := hmk
  · exact ⟨_, asl_shiftsBy⟩
  · exact ⟨_, lsr_shiftsBy⟩
  · exact ⟨_, rol_shiftsBy⟩
  · exact ⟨_, ror_shiftsBy⟩

/-- A shift writes its carry out to C, and Z and N of its result. -/
theorem ShiftsBy.flagsWritten (h : ShiftsBy mk f) (d : ShiftDst) (p m : Byte) (c : Bool) :
    FlagsWritten p (shiftFlags p (f m c).1 (f m c).2) ([(.C, (shiftOf (mk d) m c).2)] ++ zn (f m c).1) := by
  rw [← h.carry d m c]
  exact flagsWritten_shiftFlags p _ _

/-- A shift of the accumulator answers in every state. -/
theorem ShiftsBy.exec_acc (h : ShiftsBy mk f) (s : State) :
    exec (mk .acc) s = .next { s with
      a := (f s.a (s.flag .C)).1, p := shiftFlags s.p (f s.a (s.flag .C)).1 (f s.a (s.flag .C)).2, fetched := s.a, cycles := 2 } := by
  rw [h.meaning]
  simp only [← h.accCycles]
  rfl

/-- A shift in memory answers when no cartridge access can be out of range: the read of its operand is followed by one write of the
result at the same address. -/
theorem ShiftsBy.exec_mem (h : ShiftsBy mk f) {m : RmwDst} {s t : State} {b : Byte} {cross : Bool} (hs : s.cart.inRange)
    (hread : readOperand (.mem (rmwAddr m)) s = .ok (b, cross, t)) :
    ∃ u, exec (mk (.mem m)) s = .next u ∧
      busWrite (addrOf (rmwAddr m) s).1 (f b (s.flag .C)).1
        { t with
          p := shiftFlags s.p (f b (s.flag .C)).1 (f b (s.flag .C)).2
          cycles := baseCycles (opcodeOf (mk (.mem m))) } = .ok u :=
  exec_of_rmwInstr (f := fun b p => ((f b (flagOf p .C)).1, shiftFlags p (f b (flagOf p .C)).1 (f b (flagOf p .C)).2)) hs hread
    (h.meaning (.mem m) s)

end

end Sys2Proof.Machine
end

section
/-! Proofs, part 29: the statement about the shifts and rotates settled. -/

namespace Sys2Proof.Settled

open Sys2Proof.Machine Sys2Proof.Claims

/-- Settles O17: the accumulator forms are evaluated (`ShiftsBy.exec_acc`), and a memory form is one read and one write at the effective
address (`ShiftsBy.exec_mem`). -/
theorem shiftResults : Obligations.ShiftResults := by
  refine ⟨fun _ _ => encodingsAre_of_columns rfl (by simp only [List.map]; decide), fun mk hmk s => ?_⟩
  obtain ⟨f, hf⟩ := exists_shiftsBy hmk
  refine ⟨?acc, fun m hs => ?mem⟩
  case acc => exact ⟨_, _, hf.result .acc s.a (s.flag .C), hf.flagsWritten .acc s.p s.a (s.flag .C), hf.exec_acc s⟩
  case mem =>
    obtain ⟨b, cross, t, hread⟩ := readOperand_inRange hs (.mem (rmwAddr m))
    obtain ⟨u, hnext, hwrite⟩ := hf.exec_mem hs hread
    exact ⟨b, cross, t, _, _, u, hread, hf.result (.mem m) b (s.flag .C), hf.flagsWritten (.mem m) s.p b (s.flag .C), hnext, hwrite⟩

end Sys2Proof.Settled
end

section
/-! Proofs, part 30: the branches, the jump pointer, and what calls, returns and handler entries leave, each evaluated in every state
(30_encoding.md R142, 45_control_transfer.md R270 to R281, 60_exceptions.md R317, R318). -/

namespace Sys2Proof.Machine

open Sys2Proof.Claims

/-! ### Branches -/

section
variable {i : Instr} {d : Byte} {f : Flag} {v : Bool}

/-- A branch answers in every state. -/
theorem branch_answers (hb : branchOf i = some (d, f, v)) (s : State) : ∃ t, exec i s = .next t := by
  cases i
  case bcc | bcs | beq | bmi | bne | bpl | bvc | bvs => exact ⟨_, rfl⟩
  all_goals cases hb

theorem baseCycles_of_branchOf (hb : branchOf i = some (d, f, v)) : baseCycles (opcodeOf i) = 2 := by
  cases i
  case bcc | bcs | beq | bmi | bne | bpl | bvc | bvs =>
    simp only [opcodeOf]
    decide
  all_goals cases hb

/-- A branch writes PC only when taken, and it adds the cycles of R273. -/
theorem exec_of_branchOf (hb : branchOf i = some (d, f, v)) (s : State) :
    exec i s = .next { s with
      pc := if s.flag f = v then s.pc + d.signExtend 16 else s.pc
      addrRel := d.signExtend 16
      cycles := 2 + branchExtra s d (s.flag f == v) } := by
  obtain ⟨t, hnext⟩ := branch_answers hb s
  have hbranch := exec_branch_inv hnext hb
  rw [hnext, ← baseCycles_of_branchOf hb, ← branchInstr_cycles hbranch rfl]
  simp only [branchInstr, Except.ok.injEq, beq_iff_eq] at hbranch
  subst hbranch
  split <;> rfl

end

/-! ### Jumps -/

theorem and_lowMask (w : Word) : w &&& 0x00FF = wordOf (lowByte w) 0x00 :=
  calc w &&& 0x00FF
    _ = wordOf (lowByte w) (highByte w) &&& wordOf 0xFF 0x00 := by rw [wordOf_lowByte_highByte]; rfl
    _ = wordOf (lowByte w &&& 0xFF) (highByte w &&& 0x00) := BitVec.and_append
    _ = wordOf (lowByte w) 0x00 := by
      rw [show lowByte w &&& 0xFF = lowByte w from BitVec.and_allOnes, show highByte w &&& 0x00 = 0x00 from BitVec.and_zero]

theorem lowByte_eq_ff_iff (w : Word) : lowByte w = 0xFF ↔ w &&& 0x00FF = 0x00FF := by
  rw [and_lowMask]
  exact ⟨fun h => by rw [h]; rfl, fun h => (lowByte_wordOf _ _).symm.trans (congrArg lowByte h)⟩

/-- JMP indirect reads the byte after its pointer, within the pointer's page (R142). -/
theorem pointerHigh_eq (w : Word) : pointerHigh w = if w &&& 0x00FF = 0x00FF then w &&& 0xFF00 else w + 1 := by
  simp only [pointerHigh, lowByte_eq_ff_iff]

/-- JMP takes its operand in every state (R270). -/
theorem exec_jmp_abs (w : Word) (s : State) : exec (.jmp (.abs w)) s = .next { s with pc := w, addrAbs := w, cycles := 3 } := by
  have hcycles : baseCycles (opcodeOf (.jmp (.abs w))) = 3 := show baseCycles 0x4C = 3 by decide
  rw [exec, execJmp, hcycles]
  rfl

/-- JMP indirect takes the word its two reads give, the low byte read first (R270, D35). -/
theorem exec_jmp_ind {w : Word} {s s1 s2 : State} {lo hi : Byte} (hlo : busRead w s = .ok (lo, s1))
    (hhi : busRead (pointerHigh w) s1 = .ok (hi, s2)) :
    exec (.jmp (.ind w)) s = .next { s2 with pc := wordOf lo hi, addrAbs := wordOf lo hi, cycles := 5 } := by
  have hpair : readPair w (pointerHigh w) s = .ok (wordOf lo hi, s2) := by
    simp only [readPair, hlo, hhi, Run.ok_bind]
  have htarget : ∀ u, jumpTarget (.ind w) u = readPair w (pointerHigh w) u := fun _ => rfl
  have hcycles : baseCycles (opcodeOf (.jmp (.ind w))) = 5 := show baseCycles 0x6C = 5 by decide
  rw [exec, execJmp, htarget, readPair_setCycles, hpair, hcycles, map_ok, Run.ok_bind, toOutcome_ok]
  rfl

/-! ### Calls and returns -/

/-- The RAM after the two pushes of a word, the high byte first (R225). -/
def wordPushed (m : Memory) (sp : Byte) (w : Word) : Memory :=
  (m.write (stackIndex sp) (highByte w)).write (stackIndex (sp - 1)) (lowByte w)

/-- JSR answers in every state (R271). -/
theorem exec_jsr (w : Word) (s : State) :
    exec (.jsr w) s = .next { s with
      ram := wordPushed s.ram s.sp (s.pc - 1), sp := s.sp - 2, pc := w, addrAbs := w, cycles := 6 } := by
  have hcycles : baseCycles (opcodeOf (.jsr w)) = 6 := show baseCycles 0x20 = 6 by decide
  rw [exec, execJsr, hcycles, pushWord_eq, Run.ok_bind, toOutcome_ok]
  rfl

/-- RTS answers in every state (R272). -/
theorem exec_rts (s : State) :
    exec .rts s = .next { s with
      pc := wordOf (s.ram.read (stackIndex (s.sp + 1))) (s.ram.read (stackIndex (s.sp + 2))) + 1
      sp := s.sp + 2, fetched := s.a, cycles := 6 } := by
  rw [exec, execRts, stackInstr, pullWord_eq, Run.ok_bind, toOutcome_ok]
  rfl

/-- RTI answers in every state (R299). -/
theorem exec_rti (s : State) :
    exec .rti s = .next { s with
      p := pulledStatus (s.ram.read (stackIndex (s.sp + 1)))
      pc := wordOf (s.ram.read (stackIndex (s.sp + 2))) (s.ram.read (stackIndex (s.sp + 3)))
      sp := s.sp + 3, fetched := s.a, cycles := 6 } := by
  rw [exec, execRti, stackInstr, returnFromHandler_eq, toOutcome_ok]
  rfl

/-- BRK answers whenever there is a program bank (R298). -/
theorem exec_brk {s : State} (h : 1 ≤ s.cart.prgBanks) :
    exec .brk s = .next { s with
      ram := framePushed s (pushedStatus s.p), sp := s.sp - 3, p := withFlag (withFlag s.p .B false) .I true
      pc := prgWord s.cart irqVector (irqVector + 1), addrAbs := s.pc - 1, cycles := 7 } := by
  rw [exec, execBrk, enterBrk_eq (by exact h), toOutcome_ok]
  rfl

/-! ### The stack read back -/

theorem stackIndex_ne {sp sp' : Byte} (h : sp ≠ sp') : stackIndex sp ≠ stackIndex sp' :=
  fun he => h (BitVec.eq_of_toNat_eq (Nat.add_left_cancel he))

/-- A word pushed at SP is the word pulled from there, also where SP wraps. -/
theorem wordPushed_pulled (m : Memory) (sp : Byte) (w : Word) :
    wordOf ((wordPushed m sp w).read (stackIndex (sp - 1))) ((wordPushed m sp w).read (stackIndex sp)) = w := by
  have hne : stackIndex sp ≠ stackIndex (sp - 1) := stackIndex_ne (by bv_omega)
  rw [wordPushed, Memory.read_write_same, Memory.read_write_ne _ _ hne, Memory.read_write_same, wordOf_lowByte_highByte]

section
variable (s : State) (pushed : Byte)

theorem framePushed_status : (framePushed s pushed).read (stackIndex (s.sp - 2)) = pushed :=
  Memory.read_write_same _ _ _

theorem framePushed_pc :
    wordOf ((framePushed s pushed).read (stackIndex (s.sp - 1))) ((framePushed s pushed).read (stackIndex s.sp)) = s.pc := by
  have hlo : stackIndex (s.sp - 1) ≠ stackIndex (s.sp - 2) := stackIndex_ne (by bv_omega)
  have hhi : stackIndex s.sp ≠ stackIndex (s.sp - 2) := stackIndex_ne (by bv_omega)
  rw [framePushed, Memory.read_write_ne _ _ hlo, Memory.read_write_ne _ _ hhi]
  exact wordPushed_pulled s.ram s.sp s.pc

end

/-! ### Handlers -/

/-- `t` is what an entry leaves of `s` when it pushes a status byte with the flags of P but for B and U (R311 to R313, R298). -/
structure EntersHandler (s : State) (pushed : Byte) (t : State) : Prop where
  status (f : Flag) (hB : f ≠ .B) (hU : f ≠ .U) : flagOf pushed f = flagOf s.p f
  ram : t.ram = framePushed s pushed
  sp : t.sp = s.sp - 3
  masked : t.flag .I = true
  a : t.a = s.a
  x : t.x = s.x
  y : t.y = s.y

theorem flagOf_pushedStatus_of_ne (p : Byte) (f : Flag) (hB : f ≠ .B) (hU : f ≠ .U) : flagOf (pushedStatus p) f = flagOf p f := by
  rw [flagOf_pushedStatus]
  cases f
  case B => exact absurd rfl hB
  case U => exact absurd rfl hU
  all_goals rfl

theorem flagOf_interruptStatus_of_ne (p : Byte) (f : Flag) (hB : f ≠ .B) (hU : f ≠ .U) :
    flagOf (interruptStatus p) f = flagOf p f := by
  rw [interruptStatus, flagOf_withFlag, if_neg hU, flagOf_withFlag, if_neg hB]

section
variable {s t : State} {pushed : Byte}

theorem brk_entersHandler (hbank : 1 ≤ s.cart.prgBanks) (h : exec .brk s = .next t) : EntersHandler s (pushedStatus s.p) t := by
  rw [exec_brk hbank] at h
  cases h
  exact ⟨flagOf_pushedStatus_of_ne s.p, rfl, rfl, flagOf_withFlag _ .I .I true, rfl, rfl, rfl⟩

theorem cpuIrq_entersHandler (hbank : 1 ≤ s.cart.prgBanks) (hI : s.flag .I = false) (h : cpuIrq s = .ok t) :
    EntersHandler s (interruptStatus s.p) t := by
  rw [cpuIrq_eq hbank hI] at h
  cases h
  exact ⟨flagOf_interruptStatus_of_ne s.p, rfl, rfl, flagOf_withFlag _ .I .I true, rfl, rfl, rfl⟩

theorem cpuNmi_entersHandler (hbank : 1 ≤ s.cart.prgBanks) (h : cpuNmi s = .ok t) : EntersHandler s (interruptStatus s.p) t := by
  rw [cpuNmi_eq hbank] at h
  cases h
  exact ⟨flagOf_interruptStatus_of_ne s.p, rfl, rfl, flagOf_withFlag _ .I .I true, rfl, rfl, rfl⟩

/-- P after RTI in a handler is P from before the entry, with B as 0 and U as 1 (D3). -/
theorem EntersHandler.flagsWritten (h : EntersHandler s pushed t) :
    FlagsWritten s.p (pulledStatus pushed) [(.B, false), (.U, true)] := by
  intro f
  rw [flagOf_pulledStatus]
  cases f
  case B | U => rfl
  all_goals exact h.status _ nofun nofun

/-- RTI in a handler restores PC and S (R318). -/
theorem EntersHandler.rti_restores (h : EntersHandler s pushed t) :
    exec .rti t = .next { t with p := pulledStatus pushed, pc := s.pc, sp := s.sp, fetched := t.a, cycles := 6 } := by
  have h1 : s.sp - 3 + 1 = s.sp - 2 := by bv_omega
  have h2 : s.sp - 3 + 2 = s.sp - 1 := by bv_omega
  have h3 : s.sp - 3 + 3 = s.sp := by bv_omega
  rw [exec_rti, h.ram, h.sp, h1, h2, h3, framePushed_status, framePushed_pc]

/-- RTS right after JSR restores PC and S: the pushed address is one short of it, and RTS adds the one (R271, R272). -/
theorem exec_rts_of_jsr {w : Word} (h : exec (.jsr w) s = .next t) :
    exec .rts t = .next { t with pc := s.pc, sp := s.sp, fetched := t.a, cycles := 6 } := by
  rw [exec_jsr] at h
  cases h
  have h1 : s.sp - 2 + 1 = s.sp - 1 := by bv_omega
  have h2 : s.sp - 2 + 2 = s.sp := by bv_omega
  have hpc : s.pc - 1 + 1 = s.pc := by bv_omega
  rw [exec_rts]
  simp only [h1, h2, wordPushed_pulled, hpc]

end

end Sys2Proof.Machine
end

section
/-! Proofs, part 31: the statements about control transfers settled. -/

namespace Sys2Proof.Settled

open Sys2Proof.Machine Sys2Proof.Claims

/-- Settles O20: each listed instruction is a branch on its flag (`exec_of_branchOf`). -/
theorem branchResults : Obligations.BranchResults := by
  refine ⟨fun _ => encodingsAre_of_columns rfl (by simp only [List.map]; decide), fun s d i f v hmem => ?_⟩
  have hb : branchOf i = some (d, f, v) := by
    simp only [List.mem_cons, List.not_mem_nil, or_false, Prod.mk.injEq] at hmem
    obtain h | h | h | h | h | h | h | h := hmem
    all_goals
      obtain ⟨rfl, rfl, rfl⟩ := h
      rfl
  exact exec_of_branchOf hb s

/-- Settles O25: RTS after JSR restores PC and S (`exec_rts_of_jsr`), and RTI does so from each of the three entries, with the flags
(`EntersHandler.rti_restores`, `EntersHandler.flagsWritten`). -/
theorem returnsUndoEntries : Obligations.ReturnsUndoEntries := by
  refine ⟨fun s w => ⟨_, _, exec_jsr w s, exec_rts_of_jsr (exec_jsr w s), rfl, rfl, rfl⟩, fun s hbank t hentry => ?_⟩
  obtain ⟨pushed, h⟩ : ∃ pushed, EntersHandler s pushed t := by
    obtain hbrk | ⟨hirq, hI⟩ | hnmi := hentry
    · exact ⟨_, brk_entersHandler hbank hbrk⟩
    · exact ⟨_, cpuIrq_entersHandler hbank hI hirq⟩
    · exact ⟨_, cpuNmi_entersHandler hbank hnmi⟩
  exact ⟨h.masked, _, h.rti_restores, rfl, rfl, h.a, h.x, h.y, h.flagsWritten⟩

/-- Settles O18: the absolute form is evaluated; the indirect form's two reads answer when no cartridge access can be out of range, and
the second is at `pointerHigh`. -/
theorem jumpResults : Obligations.JumpResults := by
  refine ⟨fun _ => encodingsAre_of_columns rfl (by simp only [List.map]; decide), fun s w => ⟨exec_jmp_abs w s, fun hs => ?ind⟩⟩
  case ind =>
    obtain ⟨lo, s1, hlo⟩ := busRead_inRange hs w
    obtain ⟨hi, s2, hhi⟩ := busRead_inRange (s := s1) (by rw [busRead_cart hlo]; exact hs) (pointerHigh w)
    exact ⟨lo, hi, s1, s2, hlo, by rw [← pointerHigh_eq]; exact hhi, exec_jmp_ind hlo hhi⟩

/-- Settles O19: the next states are those of `exec_jsr` and `exec_rts`. -/
theorem subroutineResults : Obligations.SubroutineResults :=
  fun s w => ⟨encodingsAre_of_columns rfl (by simp only [List.map]; decide), exec_jsr w s, exec_rts s⟩

end Sys2Proof.Settled
end

section
/-! Proofs, part 32: flags written one after another, and what an instruction leaves that writes one flag (46_flags_system.md R290
to R296). -/

namespace Sys2Proof.Machine

open Sys2Proof.Claims

/-! ### Flags written one after another -/

/-- After the listed flags, one that is not among them can be written too. -/
theorem flagsWritten_append {p q : Byte} {l : List (Flag × Bool)} (h : FlagsWritten p q l) {f : Flag} (hf : l.lookup f = none)
    (b : Bool) : FlagsWritten p (withFlag q f b) (l ++ [(f, b)]) := by
  intro g
  rw [flagOf_withFlag, List.lookup_append]
  by_cases hg : g = f
  · simp [hg, hf]
  · have hlast : [(f, b)].lookup g = none := by simp [List.lookup_eq_none_iff, hg]
    rw [if_neg hg, hlast, Option.or_none]
    exact h g

/-- One write writes its flag and no other. -/
theorem flagsWritten_withFlag (p : Byte) (f : Flag) (b : Bool) : FlagsWritten p (withFlag p f b) [(f, b)] :=
  flagsWritten_append (l := []) (fun _ => rfl) rfl b

/-! ### Flag instructions -/

/-- An instruction whose meaning is one flag write in two cycles answers in every state with that flag written (R290 to R296). -/
theorem exec_of_setFlag {i : Instr} {s : State} {op : Byte} {f : Flag} {v : Bool}
    (hmeaning : exec i s = toOutcome (impliedInstr op (fun t => t.setFlag f v) s)) (hcycles : baseCycles op = 2) :
    exec i s = .next { s with p := withFlag s.p f v, fetched := s.a, cycles := 2 } := by
  rw [hmeaning, impliedInstr, hcycles, toOutcome_ok]
  rfl

end Sys2Proof.Machine
end

section
/-! Proofs, part 33: the statements about the flag instructions, BRK and RTI settled. -/

namespace Sys2Proof.Settled

open Sys2Proof.Machine Sys2Proof.Claims

/-- Settles O21: each listed instruction is one write of its flag (`exec_of_setFlag`, `flagsWritten_withFlag`); NOP is evaluated. -/
theorem flagInstructionResults : Obligations.FlagInstructionResults := by
  refine ⟨encodingsAre_of_columns rfl (by decide), fun s i f v hmem => ?flags, fun _ => rfl⟩
  case flags =>
    refine ⟨withFlag s.p f v, flagsWritten_withFlag s.p f v, ?_⟩
    simp only [List.mem_cons, List.not_mem_nil, or_false, Prod.mk.injEq] at hmem
    obtain h | h | h | h | h | h | h := hmem
    all_goals
      obtain ⟨rfl, rfl, rfl⟩ := h
      exact exec_of_setFlag rfl (by decide)

/-- Settles O23: the next states are those of `exec_rti` and `exec_brk`. RTI's P is a pulled status (`flagsWritten_pulledStatus`), BRK
writes B and then I (`flagsWritten_append`), and the bus reads of the vector are of PRG bytes (`busRead_prg`). -/
theorem brkAndRtiResults : Obligations.BrkAndRtiResults := by
  refine ⟨encodingsAre_of_columns rfl (by decide), fun s => ?rti, fun s hbank => ?brk⟩
  case rti => exact ⟨_, flagsWritten_pulledStatus _, exec_rti s⟩
  case brk =>
    have hflags := flagsWritten_append (flagsWritten_withFlag s.p .B false) (f := .I) rfl true
    exact ⟨_, _, _, hflags, busRead_prg hbank (by decide), busRead_prg hbank (by decide), exec_brk hbank⟩

end Sys2Proof.Settled
end

section
/-! Proofs, part 34: interrupt entries and the parts of a step put together (60_exceptions.md R312, R313, R330, R333). -/

namespace Sys2Proof.Machine

open Sys2Proof.Claims

/-- P after an IRQ or NMI entry, from P before it: B as 0 and U as 1 as in the pushed byte, and then I as 1 (R312, R313, D4). -/
theorem flagsWritten_interruptStatus (p : Byte) :
    FlagsWritten p (interruptStatus p) [(.B, false), (.U, true)] ∧
      FlagsWritten p (withFlag (interruptStatus p) .I true) [(.B, false), (.U, true), (.I, true)] := by
  have hpushed : FlagsWritten p (interruptStatus p) [(.B, false), (.U, true)] :=
    flagsWritten_append (flagsWritten_withFlag p .B false) rfl true
  exact ⟨hpushed, flagsWritten_append hpushed rfl true⟩

/-- A step is the IRQ call due in it, the PPU's cycle, the CPU slot, NMI delivery and the count of M, when each of them answers. -/
theorem step_of_parts {s0 s s2 s3 : State} {q : Ppu} (hirq : IrqCalled s0 s) (hppu : ppuClock s.cart s.ppu = .ok q)
    (hslot : slotPart (s.setPpu q) = .ok s2) (hnmi : nmiPart s2 = .ok s3) :
    step s0 = .next (s3.setMaster (s3.master + 1)) := by
  have hpart : ppuPart s = .ok (s.setPpu q) := by rw [ppuPart, hppu, Run.ok_bind]
  rw [step, masterStep, scheduledIrq_of_irqCalled hirq, Run.ok_bind, busClock, hpart, Run.ok_bind, hslot, Run.ok_bind, hnmi,
    Run.ok_bind, toOutcome_ok]

/-- Bus traffic raises no NMI request and takes none. -/
theorem BusFrame.nmiReq {s t : State} (h : BusFrame s t) : t.ppu.nmiReq = s.ppu.nmiReq := by rw [h.ppu]

/-- The CPU slot leaves M and an NMI request as they are, whether DMA, the CPU or nothing takes it. -/
theorem slotPart_keeps {s t : State} (h : slotPart s = .ok t) : t.master = s.master ∧ t.ppu.nmiReq = s.ppu.nmiReq := by
  refine ⟨(slotPart_counters h).1, ?_⟩
  obtain ⟨_, rfl⟩ | ⟨_, _, hd⟩ | ⟨_, _, hc⟩ := slotPart_cases h
  · rfl
  · exact (dmaStep_frame hd).nmiReq
  · obtain ⟨u, rfl, ⟨_, hd⟩ | ⟨_, rfl⟩⟩ := cpuClock_inv hc
    · exact (dispatch_busFrame hd).nmiReq
    · rfl

/-- With a request pending and a program bank, NMI delivery is the entry with the request taken away (R333). -/
theorem nmiPart_of_request {s : State} (hbank : 1 ≤ s.cart.prgBanks) (hreq : s.ppu.nmiReq = true) :
    ∃ n, cpuNmi s = .ok n ∧ n.flag .I = true ∧ n.cycles = 8 ∧ n.cart = s.cart ∧ n.master = s.master ∧
      n.pc = prgWord n.cart 0xFFFA 0xFFFB ∧ nmiPart s = .ok (n.setPpu { s.ppu with nmiReq := false }) := by
  refine ⟨_, cpuNmi_eq hbank, flagOf_withFlag _ .I .I true, rfl, rfl, rfl, rfl, ?_⟩
  rw [nmiPart, if_pos hreq]
  exact cpuNmi_eq (s := s.setPpu { s.ppu with nmiReq := false }) hbank

end Sys2Proof.Machine
end

section
/-! Proofs, part 35: the statements about interrupt entries and master steps settled. -/

namespace Sys2Proof.Settled

open Sys2Proof.Machine Sys2Proof.Claims

/-- Settles O24: the closed forms of the two entries (`cpuIrq_eq`, `cpuNmi_eq`), whose vectors are PRG bytes (`busRead_prg`). -/
theorem interruptEntries : Obligations.InterruptEntries := by
  intro s hbank
  refine ⟨fun hI => if_pos hI, ?_⟩
  obtain ⟨hpushed, hafter⟩ := flagsWritten_interruptStatus s.p
  refine ⟨_, _, _, _, _, _, hpushed, hafter, busRead_prg hbank (by decide), busRead_prg hbank (by decide),
    busRead_prg hbank (by decide), busRead_prg hbank (by decide), ?_⟩
  rintro ram rfl
  exact ⟨fun hI => cpuIrq_eq hbank hI, cpuNmi_eq hbank⟩

/-- Settles O50: the slot is empty, and the PPU's cycle raises no request (`ppuClock_nmiReq`), so that no NMI is delivered. -/
theorem stepOutsideCpuSlot : Obligations.StepOutsideCpuSlot := by
  intro s0 s hirq hrange hslot hreq hblank
  obtain ⟨q, hq⟩ := ppuClock_inRange hrange s.ppu
  have hnone : q.nmiReq = false := by simpa [ppuClock_nmiReq hq, hreq, Ppu.enableNmi] using hblank
  have hempty : slotPart (s.setPpu q) = .ok (s.setPpu q) := if_neg hslot
  have hnmi : nmiPart (s.setPpu q) = .ok (s.setPpu q) := if_neg (by simp [hnone])
  exact ⟨q, hq, step_of_parts hirq hq hempty hnmi⟩

/-- Settles O51: the parts of the step (`step_inv`). The PPU's cycle requests an NMI exactly if it is enabled, the slot keeps the
request (`slotPart_keeps`), and NMI delivery takes it (`nmiPart_of_request`). -/
theorem nmiEntersInTheVblankStep : Obligations.NmiEntersInTheVblankStep := by
  intro s0 s t hirq hline hcycle hreq hbank h
  obtain ⟨s1, q, u, s3, h1, hq, hslot, hnmi, rfl⟩ := step_inv h
  obtain rfl : s = s1 := Except.ok.inj ((scheduledIrq_of_irqCalled hirq).symm.trans h1)
  obtain ⟨hmaster, hkept⟩ := slotPart_keeps hslot
  rw [State.setPpu_master] at hmaster
  have hraised : u.ppu.nmiReq = s.ppu.ctrl.getLsbD 7 := by
    rw [hkept, State.setPpu_ppu, ppuClock_nmiReq hq, hreq, hline, hcycle]
    rfl
  have hblank : q.status.getLsbD 7 = true := (statusFlagLifetimes s.cart s.ppu q hq).1 ⟨hline, hcycle⟩
  have hcpu : s.master % 3 ≠ 0 → u = { s with ppu := q } := fun hm => Except.ok.inj (hslot.symm.trans (if_neg hm))
  have hdma : s.master % 3 = 0 → s.dma.active = true → dmaStep { s with ppu := q } = .ok u :=
    fun hm ha => (slotPart_running hslot ha).2 hm
  have hclock : s.master % 3 = 0 → s.dma.active = false → cpuClock { s with ppu := q } = .ok u := by
    intro hm ha
    rw [slotPart, if_pos (by exact hm), if_neg (by simp [ha])] at hslot
    exact hslot
  cases hen : s.ppu.ctrl.getLsbD 7 with
  | false =>
    obtain rfl := nmiPart_no_request hnmi (hraised.trans hen)
    refine ⟨hraised.trans hen, nofun, q, s3, hq, hblank, hcpu, hdma, hclock, fun _ => ?_, nofun⟩
    rw [hmaster]
    rfl
  | true =>
    have hubank : 1 ≤ u.cart.prgBanks := by
      rw [(slotPart_cartFrame hslot).size]
      exact hbank
    obtain ⟨n, hn, hI, hcyc, hcart, hnm, hpc, hserved⟩ := nmiPart_of_request hubank (hraised.trans hen)
    obtain rfl := Except.ok.inj (hserved.symm.trans hnmi)
    refine ⟨rfl, fun _ => ⟨hI, hcyc, hpc⟩, q, u, hq, hblank, hcpu, hdma, hclock, nofun, fun _ => ⟨n, hn, ?_⟩⟩
    rw [State.setPpu_master, hnm, hmaster]
    rfl

end Sys2Proof.Settled
end

section
/-! Proofs, part 36: an OAM DMA transfer, slot by slot (60_exceptions.md R340, R341). -/

namespace Sys2Proof.Machine

open Sys2Proof.Claims

/-! ### Many calls -/

/-- Calls of an operation made in two runs. -/
theorem runTimes_add (f : State → Run State) (m n : Nat) (s : State) :
    runTimes f (m + n) s = runTimes f m s >>= runTimes f n := by
  induction m generalizing s with
  | zero => rw [Nat.zero_add]; rfl
  | succ m ih =>
    rw [Nat.add_right_comm]
    show (f s >>= runTimes f (m + n)) = ((f s >>= runTimes f m) >>= runTimes f n)
    cases f s with
    | error e => rfl
    | ok t => exact ih t

/-- Calls made after a first run that answered. -/
theorem runTimes_add_of_ok {f : State → Run State} {m n : Nat} {s t : State} (h : runTimes f m s = .ok t) :
    runTimes f (m + n) s = runTimes f n t := by
  rw [runTimes_add, h, Run.ok_bind]

theorem runTimes_one {f : State → Run State} {s : State} : runTimes f 1 s = f s := by
  show (f s >>= fun t => .ok t) = f s
  cases f s <;> rfl

/-! ### The slots -/

/-- Slots of one parity of M are all read slots, or none is (R340). -/
theorem readParity_congr {s t : State} (hm : t.master % 2 = s.master % 2) (hp : t.params = s.params) :
    t.readParity = s.readParity := by
  rw [State.readParity, hm, hp, State.readParity]

/-- The machine at its next CPU slot (R331). -/
def State.nextSlot (s : State) : State := s.setMaster (s.master + 3)

/-- Every slot has the other parity than the one before: M moves by three. -/
theorem readParity_nextSlot (s : State) : s.nextSlot.readParity = !s.readParity := by
  have hodd : ((s.master + 3) % 2 == 1) = !(s.master % 2 == 1) := by
    rw [Bool.eq_iff_iff]
    simp only [beq_iff_eq, Bool.not_eq_true', beq_eq_false_iff_ne, ne_eq]
    omega
  show (((s.master + 3) % 2 == 1) == s.params.dmaReadOdd) = !((s.master % 2 == 1) == s.params.dmaReadOdd)
  rw [hodd]
  cases (s.master % 2 == 1) <;> cases s.params.dmaReadOdd <;> rfl

section
variable {s : State}

/-- In a slot of read parity an aligning transfer waits. -/
theorem dmaSlot_wait (ha : s.dma.align = true) (hp : s.readParity = true) : dmaSlot s = .ok s.nextSlot := by
  rw [dmaSlot, dmaStep, if_pos ha, if_pos hp]
  rfl

/-- In a slot of the other parity an aligning transfer is aligned. -/
theorem dmaSlot_align (ha : s.dma.align = true) (hp : s.readParity = false) :
    dmaSlot s = .ok (s.nextSlot.setDma { s.dma with align := false }) := by
  rw [dmaSlot, dmaStep, if_pos ha, hp]
  rfl

/-- A read slot of a transfer whose source byte no device answers. -/
theorem dmaSlot_read {b : Byte} (ha : s.dma.align = false) (hp : s.readParity = true) (hb : peek s s.dma.source = some b) :
    dmaSlot s = .ok (s.nextSlot.setDma { s.dma with data := b }) := by
  rw [dmaSlot, dmaStep, ha, hp, busRead_peek hb]
  rfl

/-- A write slot. -/
theorem dmaSlot_write (ha : s.dma.align = false) (hp : s.readParity = false) : dmaSlot s = .ok (dmaWrite s.nextSlot) := by
  rw [dmaSlot, dmaStep, ha, hp]
  rfl

end

/-! ### The copy -/

/-- A memory after the first `k` bytes of a page are copied to it, in order. -/
def pageCopied (src : Byte → Byte) : Nat → Memory → Memory
  | 0, m => m
  | k + 1, m => (pageCopied src k m).write k (src (BitVec.ofNat 8 k))

theorem read_pageCopied (src : Byte → Byte) (k : Nat) (m : Memory) (j : Nat) :
    (pageCopied src k m).read j = if j < k then src (BitVec.ofNat 8 j) else m.read j := by
  induction k with
  | zero => rfl
  | succ k ih =>
    rw [pageCopied, Memory.read_write, ih]
    by_cases hj : j = k
    · rw [if_pos hj, if_pos (by omega), hj]
    · rw [if_neg hj]
      exact if_congr (by omega) rfl rfl

/-- An aligned transfer that has copied `k` bytes of the page, two slots for each; the pending byte is the last one copied. -/
def copying (s : State) (src : Byte → Byte) (k : Nat) : State :=
  ((s.setMaster (s.master + 6 * k)).setPpu { s.ppu with oam := pageCopied src k s.ppu.oam }).setDma
    { page := s.dma.page, offset := BitVec.ofNat 8 k, data := if k = 0 then s.dma.data else src (BitVec.ofNat 8 (k - 1))
      align := false, active := decide (k ≠ 256) }

/-- The same a slot later, the next byte read and pending. -/
def copyPending (s : State) (src : Byte → Byte) (k : Nat) : State :=
  (copying s src k).nextSlot.setDma { (copying s src k).dma with data := src (BitVec.ofNat 8 k) }

section
variable {s : State} {src : Byte → Byte}

/-- An aligned transfer that has copied nothing. -/
theorem copying_zero {n : Nat} (hactive : s.dma.active = true) (hoffset : s.dma.offset = 0) :
    copying (s.setMaster n) src 0 = (s.setMaster n).setDma { s.dma with align := false } := by
  simp [copying, hactive, hoffset, pageCopied, State.setDma, State.setPpu, State.setMaster]

theorem dmaWrite_copyPending {k : Nat} (hk : k < 256) : dmaWrite (copyPending s src k).nextSlot = copying s src (k + 1) := by
  have hoffset : (BitVec.ofNat 8 k).toNat = k := by rw [BitVec.toNat_ofNat, Nat.mod_eq_of_lt hk]
  have hnext : BitVec.ofNat 8 k + 1 = BitVec.ofNat 8 (k + 1) := (BitVec.ofNat_add k 1).symm
  have hlast : (decide (k ≠ 256) && BitVec.ofNat 8 (k + 1) != 0) = decide (k + 1 ≠ 256) := by
    have hff : BitVec.ofNat 8 k = 0xFF ↔ k + 1 = 256 := by
      rw [← BitVec.toNat_inj, hoffset]
      exact (Nat.add_right_cancel_iff (n := 1)).symm
    have hactive : k ≠ 256 := by omega
    rw [← hnext, offset_wraps, decide_eq_true hactive, Bool.true_and, decide_eq_decide, ne_eq, hff]
  have hmaster : s.master + 6 * k + 3 + 3 = s.master + 6 * (k + 1) := by omega
  simp only [dmaWrite, copyPending, copying, State.nextSlot, State.setMaster, State.setPpu, State.setDma, hoffset, hlast, hnext,
    hmaster, pageCopied, Nat.add_sub_cancel, Nat.succ_ne_zero, if_false]

variable (hread : s.readParity = true) (hsrc : ∀ k : Byte, peek s (s.dma.page ++ k) = some (src k))
include hread

theorem readParity_copying (k : Nat) : (copying s src k).readParity = true := by
  have hm : (copying s src k).master % 2 = s.master % 2 := show (s.master + 6 * k) % 2 = s.master % 2 by omega
  exact (readParity_congr hm rfl).trans hread

include hsrc in
theorem dmaSlot_copying (k : Nat) : dmaSlot (copying s src k) = .ok (copyPending s src k) :=
  dmaSlot_read rfl (readParity_copying hread k) (hsrc (BitVec.ofNat 8 k))

theorem dmaSlot_copyPending {k : Nat} (hk : k < 256) : dmaSlot (copyPending s src k) = .ok (copying s src (k + 1)) := by
  rw [← dmaWrite_copyPending hk]
  exact dmaSlot_write rfl ((readParity_nextSlot _).trans (congrArg not (readParity_copying hread k)))

include hsrc in
/-- `2k` slots copy `k` bytes. -/
theorem runTimes_copying {k : Nat} (hk : k ≤ 256) : runTimes dmaSlot (2 * k) (copying s src 0) = .ok (copying s src k) := by
  induction k with
  | zero => rfl
  | succ k ih =>
    have hpending := runTimes_one.trans (dmaSlot_copying hread hsrc k)
    rw [Nat.mul_succ, runTimes_add_of_ok (ih (by omega)), runTimes_add_of_ok (m := 1) (n := 1) hpending, runTimes_one]
    exact dmaSlot_copyPending hread (by omega)

include hsrc in
/-- The transfer runs until its last byte is written. -/
theorem runTimes_copying_active {j : Nat} (hj : j < 512) :
    ∃ u, runTimes dmaSlot j (copying s src 0) = .ok u ∧ u.dma.active = true := by
  have hactive : decide (j / 2 ≠ 256) = true := decide_eq_true (by omega)
  have heven := runTimes_copying hread hsrc (k := j / 2) (by omega)
  obtain hj2 | hj2 : j = 2 * (j / 2) ∨ j = 2 * (j / 2) + 1 := by omega
  · rw [hj2]
    exact ⟨_, heven, hactive⟩
  · rw [hj2, runTimes_add_of_ok heven, runTimes_one]
    exact ⟨_, dmaSlot_copying hread hsrc (j / 2), hactive⟩

end

/-! ### The alignment -/

/-- How many slots the alignment takes: one more where the transfer starts in a slot of read parity (R341). -/
def alignSlots (s : State) : Nat := if s.readParity then 2 else 1

section
variable {s : State} (hactive : s.dma.active = true) (halign : s.dma.align = true)
include hactive halign

/-- The alignment ends in a slot of read parity with the copy about to start. -/
theorem runTimes_align (src : Byte → Byte) (hoffset : s.dma.offset = 0) :
    (s.setMaster (s.master + 3 * alignSlots s)).readParity = true ∧
      runTimes dmaSlot (alignSlots s) s = .ok (copying (s.setMaster (s.master + 3 * alignSlots s)) src 0) := by
  rw [copying_zero hactive hoffset]
  cases hp : s.readParity with
  | false =>
    have hone : alignSlots s = 1 := by rw [alignSlots, hp]; rfl
    rw [hone]
    exact ⟨(readParity_nextSlot s).trans (congrArg not hp), runTimes_one.trans (dmaSlot_align halign hp)⟩
  | true =>
    have htwo : alignSlots s = 2 := by rw [alignSlots, hp]; rfl
    have hother : s.nextSlot.readParity = false := (readParity_nextSlot s).trans (congrArg not hp)
    have hwait : runTimes dmaSlot 1 s = .ok s.nextSlot := runTimes_one.trans (dmaSlot_wait halign hp)
    rw [htwo]
    refine ⟨(readParity_nextSlot s.nextSlot).trans (congrArg not hother), ?_⟩
    exact (runTimes_add_of_ok (n := 1) hwait).trans (runTimes_one.trans (dmaSlot_align halign hother))

/-- The transfer runs while it aligns. -/
theorem runTimes_align_active {j : Nat} (hj : j < alignSlots s) : ∃ u, runTimes dmaSlot j s = .ok u ∧ u.dma.active = true := by
  match j with
  | 0 => exact ⟨s, rfl, hactive⟩
  | j + 1 =>
    have hp : s.readParity = true := by
      by_contra hn
      rw [alignSlots, if_neg hn] at hj
      omega
    obtain rfl : j = 0 := by
      rw [alignSlots, if_pos hp] at hj
      omega
    exact ⟨_, runTimes_one.trans (dmaSlot_wait halign hp), hactive⟩

end

end Sys2Proof.Machine
end

section
/-! Proofs, part 37: the statement about OAM DMA settled. -/

namespace Sys2Proof.Settled

open Sys2Proof.Machine Sys2Proof.Claims

/-- Settles O53: the alignment (`runTimes_align`), then 512 slots that copy the page byte by byte (`runTimes_copying`). -/
theorem dmaTransfer : Obligations.DmaTransfer := by
  intro s src hactive halign hoffset hsrc n hn
  obtain ⟨hread, hrun⟩ := runTimes_align hactive halign src hoffset
  have hslots : n = alignSlots s + 512 := by
    rw [hn, alignSlots, readParity_eq]
    simp only [beq_iff_eq]
    split <;> rfl
  refine ⟨fun j hj => ?running, copying (s.setMaster (s.master + 3 * alignSlots s)) src 256, ?finished, fun k => ?bytes, ?others⟩
  case running =>
    by_cases hj' : j < alignSlots s
    · exact runTimes_align_active hactive halign hj'
    · obtain ⟨k, rfl⟩ := Nat.exists_eq_add_of_le (Nat.le_of_not_lt hj')
      rw [runTimes_add_of_ok hrun]
      exact runTimes_copying_active hread hsrc (by omega)
  case finished =>
    rw [hslots, runTimes_add_of_ok hrun]
    exact runTimes_copying hread hsrc (Nat.le_refl 256)
  case bytes =>
    show (pageCopied src 256 s.ppu.oam).read k.toNat = src k
    rw [read_pageCopied, if_pos k.isLt, BitVec.ofNat_toNat, BitVec.setWidth_eq]
  case others =>
    have hmaster : s.master + 3 * alignSlots s + 6 * 256 = s.master + 3 * n := by omega
    simp only [copying, State.setDma, State.setPpu, State.setMaster, hmaster]
    rfl

end Sys2Proof.Settled
end

section
/-! Proofs, part 38: the PPU's two counters over one cycle and over many (60_exceptions.md R361, R362). -/

namespace Sys2Proof.Machine

open Sys2Proof.Claims

/-- The odd-frame skip, in the statements' terms (R361). -/
theorem oddFrameSkip_cycle (q : Ppu) : (oddFrameSkip q).cycle =
    if q.scanline = 0 ∧ q.cycle = 0 ∧ q.oddFrame = true ∧ (q.mask.getLsbD 3 || q.mask.getLsbD 4) = true then 1 else q.cycle :=
  apply_ite Ppu.cycle _ _ _

/-- A PPU cycle moves the counters, the parity and the frame signal as `Advance` does, after the odd-frame skip. -/
theorem ppuClock_counters {c : Cart} {q q' : Ppu} (h : ppuClock c q = .ok q') :
    q'.cycle = (advance (oddFrameSkip q)).cycle ∧ q'.scanline = (advance (oddFrameSkip q)).scanline ∧
      q'.oddFrame = (advance (oddFrameSkip q)).oddFrame ∧ q'.frameComplete = (advance (oddFrameSkip q)).frameComplete := by
  obtain ⟨q2, rfl, hpart⟩ := ppuClock_effect h
  rw [hpart.frame]
  simp only [advance]
  split
  · split <;> exact ⟨rfl, rfl, rfl, rfl⟩
  · exact ⟨rfl, rfl, rfl, rfl⟩

theorem advance_within {q : Ppu} (h : q.cycle + 1 ≤ 340) : advance q = { q with cycle := q.cycle + 1 } :=
  if_neg (by omega)

theorem advance_line {q : Ppu} (hc : q.cycle + 1 = 341) (hs : q.scanline < 260) :
    advance q = { q with cycle := 0, scanline := q.scanline + 1 } := by
  rw [advance, if_pos hc, if_neg (by omega)]

theorem advance_frame_end {q : Ppu} (hc : q.cycle + 1 = 341) (hs : q.scanline = 260) :
    advance q = { q with cycle := 0, scanline := -1, frameComplete := true, oddFrame := !q.oddFrame } := by
  rw [advance, if_pos hc, if_pos (by omega)]

end Sys2Proof.Machine
end

section
/-! Proofs, part 39: the statements about the PPU's counters settled. -/

namespace Sys2Proof.Settled

open Sys2Proof.Machine Sys2Proof.Claims

/-- Settles O39: `Advance` after the odd-frame skip, by where the two counters are. -/
theorem ppuCountersAdvance : Obligations.PpuCountersAdvance := by
  intro c q q' h hlo hhi hc n hn
  obtain ⟨hcycle, hline, hodd, hframe⟩ := ppuClock_counters h
  have hskip := oddFrameSkip_part q
  rw [← oddFrameSkip_cycle] at hn
  have hs : (oddFrameSkip q).scanline = q.scanline := (oddFrameSkip_counters q).1
  have ho : (oddFrameSkip q).oddFrame = q.oddFrame := by rw [hskip]
  have hf : (oddFrameSkip q).frameComplete = q.frameComplete := by rw [hskip]
  refine ⟨fun hw => ?_, fun hw => ⟨?_, fun hl => ?_, fun hl => ?_⟩⟩
  · rw [advance_within (by omega)] at hcycle hline hodd hframe
    exact ⟨hcycle.trans hn.symm, hline.trans hs, hodd.trans ho, hframe.trans hf⟩
  · obtain hl | hl : q.scanline < 260 ∨ q.scanline = 260 := by omega
    · rw [hcycle, advance_line (by omega) (by omega)]
    · rw [hcycle, advance_frame_end (by omega) (by omega)]
  · rw [advance_line (by omega) (by omega)] at hline hodd hframe
    exact ⟨hline.trans (by rw [hs]), hodd.trans ho, hframe.trans hf⟩
  · rw [advance_frame_end (by omega) (by omega)] at hline hodd hframe
    exact ⟨hline, hodd.trans (by rw [ho]), hframe⟩

end Sys2Proof.Settled
end

section
/-! Proofs, part 40: the beam over whole frames (60_exceptions.md R362). -/

namespace Sys2Proof.Machine

open Sys2Proof.Claims

/-- Rendering is off, and the counters are in their ranges (R31, R38). -/
structure BeamInFrame (q : Ppu) : Prop where
  off : (q.mask.getLsbD 3 || q.mask.getLsbD 4) = false
  scanlineLow : -1 ≤ q.scanline
  scanlineHigh : q.scanline ≤ 260
  cycleHigh : q.cycle ≤ 340

section
variable {q : Ppu}

theorem BeamInFrame.range (h : BeamInFrame q) : 0 ≤ beam q ∧ beam q < 89342 := by
  obtain ⟨_, hlo, hhi, hc⟩ := h
  unfold beam
  omega

/-- One cycle moves the beam by one, and the last of a frame flips the parity. -/
theorem BeamInFrame.clock {c : Cart} {q' : Ppu} (h : BeamInFrame q) (hclock : ppuClock c q = .ok q') :
    BeamInFrame q' ∧ beam q' = (beam q + 1) % 89342 ∧ q'.oddFrame = (q.oddFrame ^^ decide (beam q = 89341)) := by
  obtain ⟨hoff, hlo, hhi, hc⟩ := h
  have hskip : oddFrameSkip q = q := if_neg fun hs => by
    have hon : (q.mask.getLsbD 3 || q.mask.getLsbD 4) = true := hs.2.2.2
    rw [hoff] at hon
    exact absurd hon (by decide)
  have hmask : q'.mask = q.mask := by
    obtain ⟨q2, rfl, hpart⟩ := ppuClock_effect hclock
    rw [advance_frame, hpart.mask, hskip]
  have hn : q.cycle + 1 = (if q.scanline = 0 ∧ q.cycle = 0 ∧ q.oddFrame = true ∧ (q.mask.getLsbD 3 || q.mask.getLsbD 4) = true
      then 1 else q.cycle) + 1 := by rw [← oddFrameSkip_cycle, hskip]
  obtain ⟨hwithin, hend⟩ := Settled.ppuCountersAdvance c q q' hclock hlo hhi hc _ hn
  unfold beam
  obtain hw | hw : q.cycle + 1 ≤ 340 ∨ q.cycle + 1 = 341 := by omega
  · obtain ⟨hcycle, hline, hodd, _⟩ := hwithin hw
    have hlast : ¬(q.scanline + 1) * 341 + q.cycle = 89341 := by omega
    exact ⟨⟨hmask ▸ hoff, by omega, by omega, by omega⟩, by omega, by rw [hodd, decide_eq_false hlast, Bool.xor_false]⟩
  · obtain ⟨hcycle, hnext, hwrap⟩ := hend hw
    obtain hs | hs : q.scanline < 260 ∨ q.scanline = 260 := by omega
    · obtain ⟨hline, hodd, _⟩ := hnext hs
      have hlast : ¬(q.scanline + 1) * 341 + q.cycle = 89341 := by omega
      exact ⟨⟨hmask ▸ hoff, by omega, by omega, by omega⟩, by omega, by rw [hodd, decide_eq_false hlast, Bool.xor_false]⟩
    · obtain ⟨hline, hodd, _⟩ := hwrap hs
      have hlast : (q.scanline + 1) * 341 + q.cycle = 89341 := by omega
      exact ⟨⟨hmask ▸ hoff, by omega, by omega, by omega⟩, by omega, by rw [hodd, decide_eq_true hlast, Bool.xor_true]⟩

end

/-- Many cycles: the beam modulo the frame's length, and the parity by the frames wrapped. -/
theorem ppuCycles_beam {c : Cart} (hc : c.inRange) (n : Nat) {q : Ppu} (h : BeamInFrame q) :
    ∃ q', ppuCycles c n q = .ok q' ∧ beam q' = (beam q + n) % 89342 ∧
      (q'.oddFrame = q.oddFrame ↔ (beam q + n) / 89342 % 2 = 0) := by
  induction n generalizing q with
  | zero =>
    obtain ⟨hlo, hhi⟩ := h.range
    exact ⟨q, rfl, by omega, iff_of_true rfl (by omega)⟩
  | succ n ih =>
    obtain ⟨q1, h1⟩ := ppuClock_inRange hc q
    obtain ⟨hin, hbeam, hodd⟩ := h.clock h1
    obtain ⟨q', hrun, hbeam', hodd'⟩ := ih hin
    obtain ⟨hlo, hhi⟩ := h.range
    refine ⟨q', by rw [ppuCycles, h1, Run.ok_bind, hrun], by omega, ?_⟩
    rw [hodd] at hodd'
    obtain hlast | hlast : beam q = 89341 ∨ beam q ≠ 89341 := em _
    · have hflip : q'.oddFrame = q.oddFrame ↔ ¬q'.oddFrame = !q.oddFrame := by
        cases q'.oddFrame <;> cases q.oddFrame <;> decide
      rw [decide_eq_true hlast, Bool.xor_true] at hodd'
      rw [hflip, hodd']
      omega
    · rw [decide_eq_false hlast, Bool.xor_false] at hodd'
      rw [hodd']
      omega

end Sys2Proof.Machine
end

section
/-! Proofs, part 41: the statement about the frame's period settled. -/

namespace Sys2Proof.Settled

open Sys2Proof.Machine Sys2Proof.Claims

/-- Settles O40, by induction on the number of cycles (`ppuCycles_beam`). -/
theorem framePeriod : Obligations.FramePeriod :=
  fun _ _ n hc hoff hlo hhi hcycle => ppuCycles_beam hc n ⟨hoff, hlo, hhi, hcycle⟩

end Sys2Proof.Settled
end

section
/-! Proofs, part 42: the loopy registers and the scroll updates as numbers (10_state.md R34; 60_exceptions.md R385 to R388). -/

namespace Sys2Proof.Machine

/-- Bits put after bits, as numbers. -/
theorem append_toNat {m n : Nat} (x : BitVec m) (y : BitVec n) : (x ++ y).toNat = x.toNat * 2 ^ n + y.toNat := by
  rw [BitVec.toNat_append, ← Nat.shiftLeft_add_eq_or_of_lt y.isLt, Nat.shiftLeft_eq]

/-- A loopy register as a number, field by field. -/
theorem loopy_toNat (fy : BitVec 3) (ny nx : Bool) (cy cx : BitVec 5) :
    (loopy fy ny nx cy cx).toNat = fy.toNat * 4096 + ny.toNat * 2048 + nx.toNat * 1024 + cy.toNat * 32 + cx.toNat := by
  simp only [loopy, append_toNat, BitVec.toNat_ofBool]
  omega

/-- A bit as a number. -/
theorem getLsbD_toNat {w : Nat} (v : BitVec w) (i : Nat) : (v.getLsbD i).toNat = v.toNat / 2 ^ i % 2 := by
  rw [BitVec.getLsbD, Nat.toNat_testBit]

section
variable (r : BitVec 15)

theorem coarseX_toNat : (coarseX r).toNat = r.toNat % 32 := by
  simp only [coarseX, BitVec.extractLsb'_toNat, Nat.shiftRight_zero]

theorem coarseY_toNat : (coarseY r).toNat = r.toNat / 32 % 32 := by
  simp only [coarseY, BitVec.extractLsb'_toNat, Nat.shiftRight_eq_div_pow]

theorem fineY_toNat : (fineY r).toNat = r.toNat / 4096 := by
  have := r.isLt
  simp only [fineY, BitVec.extractLsb'_toNat, Nat.shiftRight_eq_div_pow]
  omega

theorem nametableX_toNat : (nametableX r).toNat = r.toNat / 1024 % 2 := getLsbD_toNat r 10

theorem nametableY_toNat : (nametableY r).toNat = r.toNat / 2048 % 2 := getLsbD_toNat r 11

theorem withCoarseX_toNat (x : BitVec 5) : (withCoarseX r x).toNat = r.toNat / 32 * 32 + x.toNat := by
  simp only [withCoarseX, loopy_toNat, fineY_toNat, nametableY_toNat, nametableX_toNat, coarseY_toNat]
  omega

theorem withCoarseY_toNat (y : BitVec 5) :
    (withCoarseY r y).toNat = r.toNat / 1024 * 1024 + y.toNat * 32 + r.toNat % 32 := by
  simp only [withCoarseY, loopy_toNat, fineY_toNat, nametableY_toNat, nametableX_toNat, coarseX_toNat]
  omega

theorem withNametableX_toNat (b : Bool) :
    (withNametableX r b).toNat = r.toNat / 2048 * 2048 + b.toNat * 1024 + r.toNat % 1024 := by
  simp only [withNametableX, loopy_toNat, fineY_toNat, nametableY_toNat, coarseY_toNat, coarseX_toNat]
  omega

theorem withNametableY_toNat (b : Bool) :
    (withNametableY r b).toNat = r.toNat / 4096 * 4096 + b.toNat * 2048 + r.toNat % 2048 := by
  simp only [withNametableY, loopy_toNat, fineY_toNat, nametableX_toNat, coarseY_toNat, coarseX_toNat]
  omega

theorem withFineY_toNat (y : BitVec 3) : (withFineY r y).toNat = y.toNat * 4096 + r.toNat % 4096 := by
  simp only [withFineY, loopy_toNat, nametableY_toNat, nametableX_toNat, coarseY_toNat, coarseX_toNat]
  omega

theorem getLsbD_coarseX {i : Nat} (h : i < 5) : (coarseX r).getLsbD i = r.getLsbD i := by
  rw [coarseX, BitVec.getLsbD_extractLsb', decide_eq_true h, Bool.true_and, Nat.zero_add]

theorem getLsbD_coarseY {i : Nat} (h : 5 ≤ i ∧ i < 10) : (coarseY r).getLsbD (i - 5) = r.getLsbD i := by
  have hlt : i - 5 < 5 := by omega
  rw [coarseY, BitVec.getLsbD_extractLsb', decide_eq_true hlt, Bool.true_and, Nat.add_sub_cancel' h.1]

theorem getLsbD_fineY {i : Nat} (h : 12 ≤ i) : (fineY r).getLsbD (i - 12) = r.getLsbD i := by
  rw [fineY, BitVec.getLsbD_extractLsb', Nat.add_sub_cancel' h]
  by_cases h15 : i - 12 < 3
  · rw [decide_eq_true h15, Bool.true_and]
  · rw [decide_eq_false h15, Bool.false_and, BitVec.getLsbD_of_ge r i (by omega)]

end

/-! ### The scroll updates -/

section
variable {q : Ppu}

theorem scroll_off (h : q.rendering = false) : incrementX q = q ∧ incrementY q = q ∧ transferX q = q ∧ transferY q = q := by
  have hn : ¬q.rendering = true := by simp [h]
  exact ⟨if_neg hn, if_neg hn, if_neg hn, if_neg hn⟩

variable (h : q.rendering = true)
include h

/-- The horizontal increment within a nametable, and from its last column to the other one's first (R385). -/
theorem incrementX_cases :
    (q.v.toNat % 32 = 31 ∧ incrementX q = { q with v := withNametableX (withCoarseX q.v 0) (!nametableX q.v) }) ∨
    (q.v.toNat % 32 ≠ 31 ∧ incrementX q = { q with v := withCoarseX q.v (coarseX q.v + 1) }) := by
  have hlast : coarseX q.v = 31 ↔ q.v.toNat % 32 = 31 := by rw [← BitVec.toNat_inj, coarseX_toNat]; rfl
  rw [incrementX, if_pos h]
  split
  · exact .inl ⟨hlast.1 ‹_›, rfl⟩
  · exact .inr ⟨mt hlast.2 ‹_›, rfl⟩

/-- The vertical increment within a tile, and to the next tile row: row 29 is the last of its nametable, and row 31 wraps within
it (R386). -/
theorem incrementY_cases :
    (q.v.toNat / 4096 < 7 ∧ incrementY q = { q with v := withFineY q.v (fineY q.v + 1) }) ∨
    (q.v.toNat / 4096 = 7 ∧ q.v.toNat / 32 % 32 = 29 ∧
      incrementY q = { q with v := withNametableY (withCoarseY (withFineY q.v 0) 0) (!nametableY q.v) }) ∨
    (q.v.toNat / 4096 = 7 ∧ q.v.toNat / 32 % 32 ≠ 29 ∧
      incrementY q = { q with v := withCoarseY (withFineY q.v 0) (coarseY q.v + 1) }) := by
  have hfine : (fineY q.v).toNat = q.v.toNat / 4096 := fineY_toNat q.v
  have hrow : coarseY (withFineY q.v 0) = coarseY q.v := by
    rw [← BitVec.toNat_inj, coarseY_toNat, coarseY_toNat, withFineY_toNat]
    omega
  have htable : nametableY (withFineY q.v 0) = nametableY q.v := getLsbD_withFineY q.v 0 11
  have hlast : coarseY q.v = 29 ↔ q.v.toNat / 32 % 32 = 29 := by rw [← BitVec.toNat_inj, coarseY_toNat]; rfl
  have hlt := q.v.isLt
  rw [incrementY, if_pos h, hfine]
  simp only [hrow, htable]
  split
  · exact .inl ⟨‹_›, rfl⟩
  · refine .inr ?_
    have h7 : q.v.toNat / 4096 = 7 := by omega
    split
    · exact .inl ⟨h7, hlast.1 ‹_›, rfl⟩
    · refine .inr ⟨h7, mt hlast.2 ‹_›, ?_⟩
      split
      · rename_i h31
        rw [h31]
        rfl
      · rfl

end

end Sys2Proof.Machine
end

section
/-! Proofs, part 43: the statement about the scroll updates settled. -/

namespace Sys2Proof.Settled

open Sys2Proof.Machine Sys2Proof.Claims

/-- Settles O45: each increment case by case (`incrementX_cases`, `incrementY_cases`), as a number where the statement counts and bit
by bit elsewhere; the transfers bit by bit. -/
theorem scrollUpdates : Obligations.ScrollUpdates := by
  intro q
  have hlt := q.v.isLt
  have hzero : (0 : BitVec 5).toNat = 0 := rfl
  have hzero3 : (0 : BitVec 3).toNat = 0 := rfl
  have hone : (1 : BitVec 5).toNat = 1 := rfl
  have hone3 : (1 : BitVec 3).toNat = 1 := rfl
  refine ⟨scroll_off, fun h => ⟨?incX, ?incY, ⟨_, if_pos h, fun i => ?transX⟩, ⟨_, if_pos h, fun i => ?transY⟩⟩⟩
  case incX =>
    obtain ⟨hx, he⟩ | ⟨hx, he⟩ := incrementX_cases h
    · refine ⟨_, he, ?_, ?_, fun i h5 h10 => ?_⟩
      · rw [withNametableX_toNat, withCoarseX_toNat]
        omega
      · rw [getLsbD_withNametableX, if_pos rfl, decide_eq_true hx, Bool.xor_true]
        rfl
      · rw [getLsbD_withNametableX, if_neg h10, getLsbD_withCoarseX, if_neg (by omega)]
    · refine ⟨_, he, ?_, ?_, fun i h5 h10 => ?_⟩
      · rw [withCoarseX_toNat, BitVec.toNat_add, coarseX_toNat]
        omega
      · rw [getLsbD_withCoarseX, if_neg (by decide), decide_eq_false hx, Bool.xor_false]
      · rw [getLsbD_withCoarseX, if_neg (by omega)]
  case incY =>
    obtain ⟨hf, he⟩ | ⟨hf, hr, he⟩ | ⟨hf, hr, he⟩ := incrementY_cases h
    · have hv : (withFineY q.v (fineY q.v + 1)).toNat = (q.v.toNat / 4096 + 1) * 4096 + q.v.toNat % 4096 := by
        rw [withFineY_toNat, BitVec.toNat_add, fineY_toNat]
        omega
      have hnone : ¬(q.v.toNat / 4096 = 7 ∧ q.v.toNat / 32 % 32 = 29) := by omega
      refine ⟨_, he, by omega, by rw [if_pos hf]; omega, ?_, by omega, ?_⟩
      · rw [getLsbD_withFineY, if_neg (by decide), decide_eq_false hnone, Bool.xor_false]
      · rw [getLsbD_withFineY, if_neg (by decide)]
    · have hv : (withNametableY (withCoarseY (withFineY q.v 0) 0) (!nametableY q.v)).toNat =
          (!nametableY q.v).toNat * 2048 + q.v.toNat / 1024 % 2 * 1024 + q.v.toNat % 32 := by
        rw [withNametableY_toNat, withCoarseY_toNat, withFineY_toNat]
        omega
      have hflip := (!nametableY q.v).toNat_lt
      refine ⟨_, he, by omega, by rw [if_neg (by omega), if_pos hr]; omega, ?_, by omega, ?_⟩
      · rw [getLsbD_withNametableY, if_pos rfl, decide_eq_true ⟨hf, hr⟩, Bool.xor_true]
        rfl
      · rw [getLsbD_withNametableY, if_neg (by decide), getLsbD_withCoarseY, if_neg (by decide), getLsbD_withFineY,
          if_neg (by decide)]
    · have hv : (withCoarseY (withFineY q.v 0) (coarseY q.v + 1)).toNat =
          q.v.toNat / 1024 % 4 * 1024 + (q.v.toNat / 32 % 32 + 1) % 32 * 32 + q.v.toNat % 32 := by
        rw [withCoarseY_toNat, withFineY_toNat, BitVec.toNat_add, coarseY_toNat]
        omega
      have hnone : ¬(q.v.toNat / 4096 = 7 ∧ q.v.toNat / 32 % 32 = 29) := fun hn => hr hn.2
      refine ⟨_, he, by omega, by rw [if_neg (by omega), if_neg hr]; omega, ?_, by omega, ?_⟩
      · rw [getLsbD_withCoarseY, if_neg (by decide), getLsbD_withFineY, if_neg (by decide), decide_eq_false hnone, Bool.xor_false]
      · rw [getLsbD_withCoarseY, if_neg (by decide), getLsbD_withFineY, if_neg (by decide)]
  case transX =>
    rw [getLsbD_withCoarseX, getLsbD_withNametableX]
    by_cases h5 : i < 5
    · rw [if_pos h5, if_pos (.inl h5), getLsbD_coarseX q.t h5]
    · by_cases h10 : i = 10
      · rw [if_neg h5, if_pos h10, if_pos (.inr h10), h10]
        rfl
      · rw [if_neg h5, if_neg h10, if_neg (not_or.2 ⟨h5, h10⟩)]
  case transY =>
    rw [getLsbD_withCoarseY, getLsbD_withNametableY, getLsbD_withFineY]
    by_cases hrow : 5 ≤ i ∧ i < 10
    · rw [if_pos hrow, if_neg (by omega), getLsbD_coarseY q.t hrow]
    · rw [if_neg hrow]
      by_cases h11 : i = 11
      · rw [if_pos h11, if_neg (by omega), h11]
        rfl
      · rw [if_neg h11]
        by_cases h12 : 12 ≤ i
        · rw [if_pos h12, if_neg (by omega), getLsbD_fineY q.t h12]
        · rw [if_neg h12, if_pos (by omega)]

end Sys2Proof.Settled
end

section
/-! Proofs, part 44: the scan of sprite evaluation and the address of a sprite's pattern row (60_exceptions.md R390 to R392). -/

namespace Sys2Proof.Machine

/-! ### Evaluation -/

/-- What the scan holds when it has found the sprites `l`: it counts to nine and keeps the first eight (R390). -/
def evaluationOf (q : Ppu) (l : List Nat) : Evaluation :=
  { matched := min l.length 9, slots := (l.take 8).map (oamSlot q.oam), zero := decide (0 ∈ l.take 8) }

/-- With nine found, more change nothing. -/
theorem evaluationOf_append_of_nine (q : Ppu) {l : List Nat} (h : 9 ≤ l.length) (m : List Nat) :
    evaluationOf q (l ++ m) = evaluationOf q l := by
  have htake : (l ++ m).take 8 = l.take 8 := List.take_append_of_le_length (by omega)
  rw [evaluationOf, htake, List.length_append, Nat.min_eq_right (by omega), evaluationOf, Nat.min_eq_right h]

/-- A sprite found while there is a slot left is kept, and the ninth one is only counted. -/
theorem evaluationOf_append_one (q : Ppu) {l : List Nat} (h : l.length < 9) (n : Nat) :
    evaluationOf q (l ++ [n]) =
      if l.length < 8 then
        { matched := l.length + 1, slots := (evaluationOf q l).slots ++ [oamSlot q.oam n], zero := (evaluationOf q l).zero || n == 0 }
      else { evaluationOf q l with matched := l.length + 1 } := by
  have hcount : min (l ++ [n]).length 9 = l.length + 1 := by
    rw [List.length_append, List.length_singleton]
    omega
  split
  · rename_i h8
    have hall : l.take 8 = l := List.take_of_length_le (by omega)
    have hall' : (l ++ [n]).take 8 = l ++ [n] := List.take_of_length_le (by simp; omega)
    have hzero : decide (0 ∈ l ++ [n]) = (decide (0 ∈ l) || n == 0) := by
      rw [beq_eq_decide, ← Bool.decide_or]
      simp [eq_comm]
    rw [evaluationOf, hcount, hall', hzero, List.map_append, evaluationOf, hall]
    rfl
  · rename_i h8
    have htake : (l ++ [n]).take 8 = l.take 8 := List.take_append_of_le_length (by omega)
    rw [evaluationOf, hcount, htake]
    rfl

/-- The scan from any sprite on adds the sprites in range among the rest. -/
theorem evaluateFrom_eq (q : Ppu) (fuel n : Nat) (l : List Nat) :
    evaluateFrom q fuel n (evaluationOf q l) = evaluationOf q (l ++ (List.range' n fuel).filter (spriteInRange q)) := by
  induction fuel generalizing n l with
  | zero => rw [List.range'_zero, List.filter_nil, List.append_nil]; rfl
  | succ fuel ih =>
    have hmatched : (evaluationOf q l).matched = min l.length 9 := rfl
    rw [evaluateFrom, hmatched, List.range'_succ]
    by_cases h9 : 9 ≤ l.length
    · rw [if_pos (by omega), evaluationOf_append_of_nine q h9]
    · rw [if_neg (by omega), Nat.min_eq_left (by omega)]
      cases hr : spriteInRange q n with
      | false => rw [List.filter_cons_of_neg (by simp [hr])]; exact ih (n + 1) l
      | true =>
        have happend : l ++ (n :: (List.range' (n + 1) fuel).filter (spriteInRange q)) =
          (l ++ [n]) ++ (List.range' (n + 1) fuel).filter (spriteInRange q) := by simp
        rw [List.filter_cons_of_pos hr, happend, ← ih (n + 1) (l ++ [n]), evaluationOf_append_one q (by omega), apply_ite (evaluateFrom q fuel (n + 1))]
        rfl

/-- The sprites in range of the scanline, in the order of OAM (R390). -/
def spritesFound (q : Ppu) : List Nat := (List.range 64).filter (spriteInRange q)

theorem evaluateScan_eq (q : Ppu) : evaluateScan q = evaluationOf q (spritesFound q) := by
  rw [spritesFound, List.range_eq_range']
  exact evaluateFrom_eq q 64 0 []

/-- Sprite 0, the first of OAM, is kept if it is found. -/
theorem zero_mem_take (q : Ppu) : 0 ∈ (spritesFound q).take 8 ↔ 0 ∈ spritesFound q := by
  refine ⟨List.mem_of_mem_take, fun h => ?_⟩
  have hrange : spriteInRange q 0 = true := (List.mem_filter.1 h).2
  have hfirst : spritesFound q = 0 :: (List.range' 1 63).filter (spriteInRange q) := by
    rw [spritesFound, List.range_eq_range', List.range'_succ, List.filter_cons_of_pos hrange]
  rw [hfirst]
  exact List.mem_cons_self

/-- Up to eight slots given, and empty ones after them. -/
theorem eightSlots_eq {l : List SpriteSlot} (h : l.length ≤ 8) :
    eightSlots l = l ++ List.replicate (8 - l.length) SpriteSlot.empty := by
  rw [eightSlots, List.take_append, List.take_of_length_le h, List.take_replicate, Nat.min_eq_left (by omega)]

/-- Evaluation in closed form, by the sprites found (R390, R391). -/
theorem spriteEvaluate_eq (q : Ppu) : spriteEvaluate q = { q with
    spr := ((spritesFound q).take 8).map (oamSlot q.oam) ++
      List.replicate (8 - min (spritesFound q).length 8) SpriteSlot.empty
    sprCount := capEight (min (spritesFound q).length 9)
    spr0Possible := decide (0 ∈ spritesFound q)
    status := setBit q.status overflowBit (decide (9 ≤ (spritesFound q).length)) } := by
  have hlength : (((spritesFound q).take 8).map (oamSlot q.oam)).length = min (spritesFound q).length 8 := by
    rw [List.length_map, List.length_take, Nat.min_comm]
  have hnine : 9 ≤ min (spritesFound q).length 9 ↔ 9 ≤ (spritesFound q).length := by omega
  simp only [spriteEvaluate, evaluateScan_eq, evaluationOf, eightSlots_eq (hlength ▸ Nat.min_le_right _ _), hlength, zero_mem_take,
    hnine]

/-! ### The pattern fetch -/

/-- The bits of a byte in reverse order (R392). -/
theorem getLsbD_reverse8 (b : Byte) {i : Nat} (h : i < 8) : (reverse8 b).getLsbD i = b.getLsbD (7 - i) := by
  simp only [reverse8, BitVec.getLsbD_append, BitVec.getLsbD_ofBool]
  interval_cases i <;> rfl

/-- The parts of a pattern address share no bit: the table, the tile's number, and the row (R392). -/
theorem patternAddr_toNat {table tile row : Word} (htable : table.toNat ≤ 1) (htile : tile.toNat < 256) (hrow : row.toNat < 16) :
    (table <<< 12 ||| tile <<< 4 ||| row).toNat = table.toNat * 4096 + tile.toNat * 16 + row.toNat := by
  have htop : (table <<< 12).toNat = 2 ^ 12 * table.toNat := by
    rw [BitVec.toNat_shiftLeft, Nat.shiftLeft_eq]
    omega
  have hmid : (tile <<< 4).toNat = 2 ^ 4 * tile.toNat := by
    rw [BitVec.toNat_shiftLeft, Nat.shiftLeft_eq]
    omega
  have hboth : 2 ^ 12 * table.toNat + 2 ^ 4 * tile.toNat = 2 ^ 4 * (2 ^ 8 * table.toNat + tile.toNat) := by omega
  rw [BitVec.toNat_or, BitVec.toNat_or, htop, hmid, ← Nat.two_pow_add_eq_or_of_lt (by omega), hboth,
    ← Nat.two_pow_add_eq_or_of_lt (by omega)]
  omega

section
variable {q : Ppu} {s : SpriteSlot} {d : Nat}

/-- The row within a tile, as a number (R392). -/
theorem ofInt_row_toNat {r : Int} {k : Nat} (h : r = k) (hk : k < 8) : (BitVec.ofInt 16 r).toNat = k := by
  rw [h, BitVec.ofInt_natCast, BitVec.toNat_ofNat]
  omega

/-- The pattern row of an 8x16 sprite: its lower tile is the odd one of the pair, and vertical flip turns both tiles over (R392). -/
theorem spritePatternAddr_tall (hq : q.tallSprites = true) (hd : d < 16) : spritePatternAddr q s d = BitVec.ofNat 16
    (s.id.toNat % 2 * 4096 + (s.id.toNat / 2 * 2 + (if (decide (8 ≤ d) ^^ s.attr.getLsbD 7) then 1 else 0)) * 16
      + (if s.attr.getLsbD 7 then 7 - d % 8 else d % 8)) := by
  have htable : ((s.id &&& 0x01).setWidth 16 : Word).toNat = s.id.toNat % 2 := by
    generalize s.id = b
    revert b
    decide
  have htile : ∀ bottom : Bool, (((s.id &&& 0xFE) + (if bottom then 1 else 0)).setWidth 16 : Word).toNat =
      s.id.toNat / 2 * 2 + (if bottom then 1 else 0) := by
    generalize s.id = b
    revert b
    decide
  have hbottom : (if s.attr.getLsbD 7 then !decide ((8 : Int) ≤ d) else decide ((8 : Int) ≤ d)) =
      (decide (8 ≤ d) ^^ s.attr.getLsbD 7) := by
    have h8 : decide ((8 : Int) ≤ d) = decide (8 ≤ d) := decide_eq_decide.2 (by omega)
    rw [h8]
    cases s.attr.getLsbD 7 <;> simp
  have hrow : (BitVec.ofInt 16 ((if s.attr.getLsbD 7 then 7 - d else d : Int) % 8)).toNat =
      if s.attr.getLsbD 7 then 7 - d % 8 else d % 8 := by
    refine ofInt_row_toNat ?_ ?_ <;> split <;> omega
  have hid := s.id.isLt
  have hrange : (if s.attr.getLsbD 7 then 7 - d % 8 else d % 8) < 8 := by split <;> omega
  have hcarry : (if (decide (8 ≤ d) ^^ s.attr.getLsbD 7) then 1 else 0) ≤ 1 := by split <;> omega
  apply BitVec.eq_of_toNat_eq
  simp only [spritePatternAddr, if_pos hq, hbottom]
  rw [patternAddr_toNat (by omega) (by rw [htile]; omega) (by omega), htable, htile, hrow, BitVec.toNat_ofNat]
  omega

/-- The pattern row of an 8x8 sprite (R392). -/
theorem spritePatternAddr_short (hq : q.tallSprites = false) (hd : d < 8) : spritePatternAddr q s d = BitVec.ofNat 16
    ((q.ctrl.getLsbD 3).toNat * 4096 + s.id.toNat * 16 + (if s.attr.getLsbD 7 then 7 - d else d)) := by
  have htable : ((BitVec.ofBool q.patternSprite).setWidth 16 : Word).toNat = (q.ctrl.getLsbD 3).toNat := by
    cases hp : q.patternSprite <;> rw [← Ppu.patternSprite, hp] <;> rfl
  have htile : (s.id.setWidth 16 : Word).toNat = s.id.toNat := BitVec.toNat_setWidth_of_le (by decide)
  have hrow : (rowBits d (if s.attr.getLsbD 7 then 7 - d else d)).toNat = if s.attr.getLsbD 7 then 7 - d else d := by
    rw [rowBits, if_pos (by split <;> omega)]
    refine ofInt_row_toNat ?_ ?_ <;> split <;> omega
  have hid := s.id.isLt
  have hside := (q.ctrl.getLsbD 3).toNat_lt
  have hrange : (if s.attr.getLsbD 7 then 7 - d else d) < 8 := by split <;> omega
  apply BitVec.eq_of_toNat_eq
  simp only [spritePatternAddr, hq, Bool.false_eq_true, if_false]
  rw [patternAddr_toNat (by omega) (by omega) (by omega), htable, htile, hrow, BitVec.toNat_ofNat]
  omega

/-- The pattern fetch reads the two planes of the row, and horizontal flip reverses their bits (R392). -/
theorem fetchSprite_eq {c : Cart} {a : Word} {lo hi : Byte} (ha : spritePatternAddr q s (q.scanline - s.y.toNat) = a)
    (hlo : ppuRead c q a = .ok lo) (hhi : ppuRead c q (a + 8) = .ok hi) :
    fetchSprite c q s = .ok { s with
      patLo := if s.attr.getLsbD 6 then reverse8 lo else lo, patHi := if s.attr.getLsbD 6 then reverse8 hi else hi } := by
  rw [fetchSprite, ha, hlo, Run.ok_bind, hhi, Run.ok_bind]
  split <;> rfl

end

/-- The byte a flip gives, bit by bit. -/
theorem getLsbD_flipped (flip : Bool) (b : Byte) : ∀ i < 8,
    (if flip then reverse8 b else b).getLsbD i = b.getLsbD (if flip then 7 - i else i) := by
  intro i hi
  cases flip
  · rfl
  · exact getLsbD_reverse8 b hi

end Sys2Proof.Machine
end

section
/-! Proofs, part 45: the statements about sprite evaluation and the pattern fetch settled. -/

namespace Sys2Proof.Settled

open Sys2Proof.Machine Sys2Proof.Claims

/-- Settles O46: the scan holds what `evaluationOf` says of the sprites found (`evaluateFrom_eq`), which is the statement's state
(`spriteEvaluate_eq`). -/
theorem spriteEvaluation : Obligations.SpriteEvaluation := by
  intro q found hfound
  have hsame : spritesFound q = found := by
    rw [hfound, spritesFound]
    refine List.filter_congr fun n _ => ?_
    rw [spriteInRange, ← Bool.decide_and]
    rfl
  rw [spriteEvaluate_eq, hsame]
  refine ⟨_, fun i => getLsbD_setBit q.status (i := overflowBit) (by decide) _, ?_, rfl⟩
  show min (min found.length 9) 8 = min found.length 8
  omega

/-- Settles O47: the address in either sprite size (`spritePatternAddr_tall`, `spritePatternAddr_short`), two reads that answer, and the
bits of the flip (`getLsbD_flipped`). -/
theorem spriteFetch : Obligations.SpriteFetch := by
  intro c q s d hc hdist hd a ha
  have haddr : spritePatternAddr q s (q.scanline - s.y.toNat) = BitVec.ofNat 16 a := by
    rw [hdist, ha]
    cases htall : q.tallSprites with
    | true =>
      rw [if_pos (by exact htall)]
      rw [if_pos (by exact htall)] at hd
      exact spritePatternAddr_tall htall hd
    | false =>
      have hshort : ¬q.ctrl.getLsbD 5 = true := fun hn => absurd (htall.symm.trans hn) (by decide)
      rw [if_neg hshort]
      rw [if_neg hshort] at hd
      exact spritePatternAddr_short htall hd
  obtain ⟨lo, hlo⟩ := ppuRead_inRange hc q (BitVec.ofNat 16 a)
  obtain ⟨hi, hhi⟩ := ppuRead_inRange hc q (BitVec.ofNat 16 a + 8)
  exact ⟨lo, hi, _, _, hlo, (BitVec.ofNat_add a 8) ▸ hhi, getLsbD_flipped _ lo, getLsbD_flipped _ hi,
    fetchSprite_eq haddr hlo hhi⟩

end Sys2Proof.Settled
end

section
/-! Proofs, part 46: the background and foreground pixels, and which of them is shown (60_exceptions.md R400 to R403). -/

namespace Sys2Proof.Machine

open Sys2Proof.Claims

/-! ### The background -/

theorem twoBits_toNat (hi lo : Bool) : (twoBits hi lo).toNat = hi.toNat * 2 + lo.toNat := by
  cases hi <;> cases lo <;> rfl

/-- The bit of a shifter that `fine_x` selects, counted from the top (R401). -/
theorem shifter_mux (r : BitVec 16) (fx : BitVec 3) :
    ((r &&& ((0x8000 >>> fx.toNat : Nat) : BitVec 16)) != 0) = r.getLsbD (15 - fx.toNat) := by
  have hmask : ((0x8000 >>> fx.toNat : Nat) : BitVec 16) = BitVec.twoPow 16 (15 - fx.toNat) := by
    revert fx
    decide
  have hone : BitVec.twoPow 16 (15 - fx.toNat) ≠ 0 := by
    revert fx
    decide
  rw [hmask, BitVec.and_twoPow]
  cases r.getLsbD (15 - fx.toNat)
  · rfl
  · exact bne_iff_ne.2 hone

/-! ### The foreground -/

section
variable {l : List SpriteSlot} {n i k : Nat}

/-- A slot whose counter is 0 and whose pixel is opaque (R401). -/
def SpriteSlot.shows (s : SpriteSlot) : Prop := s.x = 0 ∧ (s.patLo.getLsbD 7 || s.patHi.getLsbD 7) = true

theorem SpriteSlot.shows_iff (s : SpriteSlot) : s.shows ↔ s.x = 0 ∧ twoBits (s.patHi.getLsbD 7) (s.patLo.getLsbD 7) ≠ 0 := by
  unfold SpriteSlot.shows
  cases s.patHi.getLsbD 7 <;> cases s.patLo.getLsbD 7 <;> simp [twoBits]

/-- The foreground pixel a slot gives. -/
def SpriteSlot.foreground (s : SpriteSlot) (zero : Bool) : Foreground :=
  { pixel := twoBits (s.patHi.getLsbD 7) (s.patLo.getLsbD 7), palette := (s.attr &&& 0x03).setWidth 3 + 4
    front := !s.attr.getLsbD 5, zero := zero }

theorem foregroundFrom_cons (s : SpriteSlot) [Decidable s.shows] :
    foregroundFrom (n + 1) i (s :: l) = if s.shows then s.foreground (i == 0) else foregroundFrom n (i + 1) l := by
  rw [foregroundFrom]
  exact if_congr s.shows_iff.symm rfl rfl

/-- With no slot that shows there is no foreground pixel. -/
theorem foregroundFrom_none (h : ∀ j s, j < n → l[j]? = some s → ¬s.shows) :
    foregroundFrom n i l = { pixel := 0, palette := 0, front := false, zero := false } := by
  induction l generalizing n i with
  | nil => cases n <;> rfl
  | cons s l ih =>
    cases n with
    | zero => rfl
    | succ n =>
      classical
      rw [foregroundFrom_cons, if_neg (h 0 s (Nat.succ_pos n) rfl)]
      exact ih fun j s' hj hs => h (j + 1) s' (Nat.succ_lt_succ hj) hs

/-- The first slot that shows gives the foreground pixel. -/
theorem foregroundFrom_first {s : SpriteSlot} (hk : k < n) (hs : l[k]? = some s) (hshow : s.shows)
    (hfirst : ∀ j < k, ∀ s', l[j]? = some s' → ¬s'.shows) : foregroundFrom n i l = s.foreground (i + k == 0) := by
  classical
  induction l generalizing n i k with
  | nil => cases hs
  | cons s0 l ih =>
    obtain ⟨n, rfl⟩ : ∃ m, n = m + 1 := ⟨n - 1, by omega⟩
    rw [foregroundFrom_cons]
    cases k with
    | zero =>
      cases hs
      exact if_pos hshow
    | succ k =>
      have hnext : i + 1 + k = i + (k + 1) := by omega
      rw [if_neg (hfirst 0 (Nat.succ_pos k) s0 rfl), ← hnext]
      exact ih (Nat.lt_of_succ_lt_succ hk) hs fun j hj s' hs' => hfirst (j + 1) (Nat.succ_lt_succ hj) s' hs'

end

/-! ### Which pixel is shown -/

theorem paletteAddr_toNat (r : BitVec 2 × BitVec 3) : (paletteAddr r).toNat = 0x3F00 + r.2.toNat * 4 + r.1.toNat := by
  obtain ⟨pixel, palette⟩ := r
  revert pixel palette
  decide

/-- The sprite-zero test in the statements' terms (R402, D23). -/
theorem zeroHit_iff (q : Ppu) : zeroHit q = true ↔
    (q.spr0Possible = true ∧ q.spr0Rendering = true ∧ q.mask.getLsbD 3 = true ∧ q.mask.getLsbD 4 = true ∧
      q.cycle ≤ 257 ∧ (if q.mask.getLsbD 1 = true ∧ q.mask.getLsbD 2 = true then 1 else 9) ≤ q.cycle) := by
  simp only [zeroHit, Ppu.renderBackground, Ppu.renderSprites, Ppu.backgroundLeft, Ppu.spritesLeft, Bool.and_eq_true, decide_eq_true_eq]
  exact ⟨fun ⟨⟨⟨⟨⟨hp, hr⟩, hb⟩, hs⟩, hlo⟩, hhi⟩ => ⟨hp, hr, hb, hs, hhi, hlo⟩,
    fun ⟨hp, hr, hb, hs, hhi, hlo⟩ => ⟨⟨⟨⟨⟨hp, hr⟩, hb⟩, hs⟩, hlo⟩, hhi⟩⟩

section
variable {b : BitVec 2 × BitVec 3} {f : Foreground} {q : Ppu}

theorem priority_foreground (hb : b.1 = 0) (hf : f.pixel ≠ 0) : priority b f q = ((f.pixel, f.palette), q) := by
  rw [priority, if_neg (fun h => hf h.2), if_pos hb]

theorem priority_background (hb : b.1 ≠ 0) (hf : f.pixel = 0) : priority b f q = (b, q) := by
  rw [priority, if_neg (fun h => hb h.1), if_neg hb, if_pos hf]

theorem priority_opaque (hb : b.1 ≠ 0) (hf : f.pixel ≠ 0) : priority b f q =
    (if f.front then (f.pixel, f.palette) else b,
      { q with status := if zeroHit q then setBit q.status zeroHitBit true else q.status }) := by
  rw [priority, if_neg (fun h => hb h.1), if_neg hb, if_neg hf]
  cases zeroHit q <;> rfl

end

end Sys2Proof.Machine
end

section
/-! Proofs, part 47: the statement about the priority of pixels settled. -/

namespace Sys2Proof.Settled

open Sys2Proof.Machine Sys2Proof.Claims

/-- Settles O48, by which of the two pixels are opaque; where both are, the hit test writes bit 6 of the status alone. -/
theorem pixelPriority : Obligations.PixelPriority := by
  intro bp bpal f q r
  refine ⟨fun h => if_pos h, fun ⟨hb, hf⟩ => priority_foreground hb hf, fun ⟨hb, hf⟩ => priority_background hb hf,
    fun ⟨hb, hf⟩ => ?both, paletteAddr_toNat r.1⟩
  case both =>
    have hr : r = _ := priority_opaque (b := (bp, bpal)) hb hf
    rw [hr, ← zeroHit_iff]
    refine ⟨rfl, _, rfl, fun i hi => ?_, ?_⟩
    · cases zeroHit q
      · rfl
      · exact (getLsbD_setBit q.status (by decide) true).trans (if_neg hi)
    · cases zeroHit q
      · exact (or_iff_left (by decide)).symm
      · exact iff_of_true (getLsbD_setBit q.status (by decide) true) (.inr rfl)

end Sys2Proof.Settled
end

section
/-! Proofs, part 48: the composition of a pixel within a PPU cycle (60_exceptions.md R400, R401, R403). -/

namespace Sys2Proof.Machine

open Sys2Proof.Claims

/-- A read of PPU memory does not depend on the renderer's own state. -/
theorem RenderPart.ppuRead {q p : Ppu} (h : RenderPart q p) (c : Cart) (a : Word) : Machine.ppuRead c p a = Machine.ppuRead c q a := by
  rw [h.frame]
  rfl

/-- A layer is hidden when it is off, or in the first eight columns when those are off (R401). -/
theorem not_shown_of_hidden {on left : Bool} {cycle : Nat} (h : on = false ∨ (left = false ∧ cycle < 9)) :
    ¬(on = true ∧ (left = true ∨ 9 ≤ cycle)) := by
  rintro ⟨rfl, hl⟩
  obtain h | ⟨rfl, hc⟩ := h
  · cases h
  · exact hl.elim (fun hl => by cases hl) (fun h9 => by omega)

section
variable {q : Ppu}

/-- The background pixel where the background is shown: the bits that `fine_x` selects (R401). -/
theorem backgroundPixel_shown (hb : q.renderBackground = true) (hl : q.backgroundLeft = true ∨ 9 ≤ q.cycle) {n : Nat}
    (hn : n = 15 - q.fineX.toNat) : backgroundPixel q =
      (twoBits (q.bgPatHi.getLsbD n) (q.bgPatLo.getLsbD n), (twoBits (q.bgAttHi.getLsbD n) (q.bgAttLo.getLsbD n)).setWidth 3) := by
  simp only [backgroundPixel, if_pos (show _ ∧ _ from ⟨hb, hl⟩), shifter_mux, hn]

theorem foregroundPixel_hidden (h : q.spritesShown = false) :
    foregroundPixel q = ({ pixel := 0, palette := 0, front := false, zero := false }, q) :=
  if_neg (by simp [h])

theorem foregroundPixel_shown (h : q.spritesShown = true) : foregroundPixel q =
    (foregroundFrom q.sprCount.val 0 q.spr, { q with spr0Rendering := (foregroundFrom q.sprCount.val 0 q.spr).zero }) :=
  if_pos h

theorem spritesShown_iff : q.spritesShown = true ↔ q.mask.getLsbD 4 = true ∧ (q.mask.getLsbD 2 = true ∨ 9 ≤ q.cycle) := by
  simp only [Ppu.spritesShown, Bool.and_eq_true, Bool.or_eq_true, decide_eq_true_eq]
  rfl

end

/-- The palette number of a slot's pixel (R401). -/
theorem spritePalette_toNat (attr : Byte) : ((attr &&& 0x03).setWidth 3 + 4 : BitVec 3).toNat = attr.toNat % 4 + 4 := by
  revert attr
  decide

/-- A read of the palette entry of a pixel always answers. -/
theorem ppuRead_paletteAddr (c : Cart) (q : Ppu) (r : BitVec 2 × BitVec 3) : ∃ b, ppuRead c q (paletteAddr r) = .ok b := by
  have hpixel := r.1.isLt
  have hpalette := r.2.isLt
  exact ⟨_, ppuRead_cell (by rw [paletteAddr_toNat]; omega) c q⟩

/-- The composition of a pixel, from the pixel shown and the PPU the hit test leaves (R400, R403). -/
theorem composePixel_eq {c : Cart} {q q1 : Ppu} {r : BitVec 2 × BitVec 3} {b : Byte}
    (h : priority (backgroundPixel q) (foregroundPixel q).1 (foregroundPixel q).2 = (r, q1))
    (hb : ppuRead c q (paletteAddr r) = .ok b) :
    composePixel c q = .ok { q1 with
      pixel := some { x := (q.cycle : Int) - 1, y := q.scanline, colourIndex := BitVec.ofNat 6 b.toNat
                      emphasis := BitVec.ofNat 3 (q.mask.toNat / 32) } } := by
  have hpart : RenderPart q q1 := by
    have hq1 := (foregroundPixel_part q).trans (priority_part (backgroundPixel q) (foregroundPixel q).1 (foregroundPixel q).2)
    rwa [h] at hq1
  have hemphasis : q.mask.extractLsb' 5 3 = BitVec.ofNat 3 (q.mask.toNat / 32) := by
    rw [BitVec.extractLsb', Nat.shiftRight_eq_div_pow]
  simp only [composePixel, h, hpart.ppuRead, hb, Run.ok_bind, hpart.cycle, hpart.scanline, hpart.mask, hemphasis, BitVec.ofNat_toNat]

/-- All the composition of a pixel writes. -/
theorem composePixel_frame {c : Cart} {q q' : Ppu} (h : composePixel c q = .ok q') :
    q' = { q with status := q'.status, spr0Rendering := q'.spr0Rendering, pixel := q'.pixel } := by
  obtain ⟨px, rfl⟩ := composePixel_inv h
  have hfore : (foregroundPixel q).2 = { q with spr0Rendering := (foregroundPixel q).2.spr0Rendering } := by
    unfold foregroundPixel
    split <;> rfl
  obtain he | ⟨_, _, he⟩ := priority_hit (backgroundPixel q) (foregroundPixel q).1 (foregroundPixel q).2
  · rw [he, hfore]
  · rw [he, hfore]
    rfl

/-- The sprite work of a cycle writes the slots, the count, `spr0_possible` and the status. -/
theorem renderSpriteWork_frame {c : Cart} {q q' : Ppu} (h : renderSpriteWork c q = .ok q') :
    q' = { q with spr := q'.spr, sprCount := q'.sprCount, spr0Possible := q'.spr0Possible, status := q'.status } := by
  unfold renderSpriteWork at h
  split at h
  · cases h
    rfl
  · split at h
    · obtain ⟨l, _, h⟩ := Run.bind_ok h
      cases h
      rfl
    · cases h
      rfl

/-- The render step leaves `spr0_rendering` to the composition of the pixel. -/
theorem renderStep_spr0Rendering {c : Cart} {q q' : Ppu} (h : renderStep c q = .ok q') : q'.spr0Rendering = q.spr0Rendering := by
  obtain ⟨p, hp, hw⟩ := renderStep_inv h
  rw [renderSpriteWork_frame hw, hp]
  obtain ⟨_, _, he⟩ | ⟨_, he⟩ := renderClear_cases (oddFrameSkip q)
  · rw [he, oddFrameSkip_part]
    rfl
  · rw [he, oddFrameSkip_part]

/-- A PPU cycle up to the PPU whose pixel it composes: the render step or vertical blank, which leave the counters and
`spr0_rendering` as the odd-frame skip does. -/
theorem ppuClock_composed {c : Cart} {q q' : Ppu} (h : ppuClock c q = .ok q') : ∃ p q2 : Ppu,
    p.scanline = q.scanline ∧ p.cycle = (oddFrameSkip q).cycle ∧ p.spr0Rendering = q.spr0Rendering ∧
      composePixel c p = .ok q2 ∧ q' = advance q2 := by
  obtain ⟨q1, q2, hvisible, hblank, hpix, rfl⟩ := ppuClock_inv h
  have hline : (vblankLine q1).scanline = q1.scanline ∧ (vblankLine q1).cycle = q1.cycle ∧
      (vblankLine q1).spr0Rendering = q1.spr0Rendering := by
    unfold vblankLine
    split <;> exact ⟨rfl, rfl, rfl⟩
  obtain ⟨hscan, hcycle, hspr0⟩ := hline
  refine ⟨vblankLine q1, q2, hscan.trans ?_, hcycle.trans ?_, hspr0.trans ?_, hpix, rfl⟩
  all_goals by_cases hl : -1 ≤ q.scanline ∧ q.scanline ≤ 239
  · exact (renderStep_part (hvisible hl)).scanline.trans (oddFrameSkip_counters q).1
  · rw [hblank hl]
  · exact (renderStep_part (hvisible hl)).cycle
  · rw [hblank hl, oddFrameSkip_of_ne (by omega)]
  · exact renderStep_spr0Rendering (hvisible hl)
  · rw [hblank hl]

end Sys2Proof.Machine
end

section
/-! Proofs, part 49: the statement about the composition of pixels settled. -/

namespace Sys2Proof.Settled

open Sys2Proof.Machine Sys2Proof.Claims

/-- Settles O49: the background pixel by `shifter_mux`, the foreground by the first slot that shows (`foregroundFrom_first`), and the
pixel of a cycle from the PPU its render step leaves (`ppuClock_composed`). -/
theorem pixelComposition : Obligations.PixelComposition := by
  refine ⟨fun q => ⟨fun h => ?hidden, fun hb hl n hn => ?shown, fun h => ?noSprites, fun hs hl => ?sprites⟩,
    fun c q q1 r h => ?pixel, fun c q q' h => ?cycle⟩
  case hidden => exact if_neg (not_shown_of_hidden h)
  case shown =>
    rw [backgroundPixel_shown hb hl hn]
    refine ⟨twoBits_toNat _ _, ?_⟩
    rw [BitVec.toNat_setWidth_of_le (by decide), twoBits_toNat]
  case noSprites =>
    have hhidden : q.spritesShown = false := by
      rw [Bool.eq_false_iff, ne_eq, spritesShown_iff]
      exact not_shown_of_hidden h
    rw [foregroundPixel_hidden hhidden]
    exact ⟨rfl, rfl⟩
  case sprites =>
    rw [foregroundPixel_shown (spritesShown_iff.2 ⟨hs, hl⟩)]
    refine ⟨fun hnone => ?_, fun i s hi hfirst => ?_⟩
    · rw [foregroundFrom_none fun j s hj hs hshow => hnone j s ⟨hj, hs, hshow⟩]
      exact ⟨rfl, rfl⟩
    · obtain ⟨hcount, hslot, hshow⟩ := hi
      rw [foregroundFrom_first hcount hslot hshow fun j hj s' hs' hshow' => hfirst j hj s' ⟨by omega, hs', hshow'⟩]
      refine ⟨twoBits_toNat _ _, spritePalette_toNat _, rfl, ?_⟩
      rw [Nat.zero_add]
      rfl
  case pixel =>
    obtain ⟨b, hb⟩ := ppuRead_paletteAddr c q r
    exact ⟨b, hb, composePixel_eq h hb⟩
  case cycle =>
    obtain ⟨p, q2, hline, hcycle, hspr0, hpix, rfl⟩ := ppuClock_composed h
    rw [oddFrameSkip_cycle] at hcycle
    refine ⟨p, q2, hpix, hline, hspr0, hcycle, ?_, advance_frame q2⟩
    rw [composePixel_frame hpix]

end Sys2Proof.Settled
end

section
/-! Proofs, part 50: what a PPU cycle leaves of its render step, and the moves of `v` (60_exceptions.md R361, R385 to R388, R404). -/

namespace Sys2Proof.Machine

open Sys2Proof.Claims

/-! ### After the render step -/

/-- After the render step a cycle writes only the status, the NMI request, the pixel's fields and the counters, and of the status
neither of the bits below the sprite-zero hit. -/
theorem ppuClock_rendered {c : Cart} {q q' : Ppu} (h : ppuClock c q = .ok q') : ∃ p, renderLine c q = .ok p ∧
    q' = { p with
      status := q'.status, nmiReq := q'.nmiReq, spr0Rendering := q'.spr0Rendering, pixel := q'.pixel
      cycle := q'.cycle, scanline := q'.scanline, oddFrame := q'.oddFrame, frameComplete := q'.frameComplete } ∧
    q'.status.getLsbD overflowBit = p.status.getLsbD overflowBit := by
  obtain ⟨p, hp, h⟩ := Run.bind_ok h
  obtain ⟨q2, hpix, h⟩ := Run.bind_ok h
  cases h
  have hblank : vblankLine p = { p with status := (vblankLine p).status, nmiReq := (vblankLine p).nmiReq } ∧
      (vblankLine p).status.getLsbD overflowBit = p.status.getLsbD overflowBit := by
    unfold vblankLine
    split
    · exact ⟨rfl, (getLsbD_setBit p.status (by decide) true).trans (if_neg (by decide))⟩
    · exact ⟨rfl, rfl⟩
  obtain ⟨hframe, hbit⟩ := hblank
  refine ⟨p, hp, ?_, ?_⟩
  · rw [advance_frame, composePixel_frame hpix, hframe]
  · rw [advance_frame]
    exact (composePixel_otherBits hpix (by decide)).trans hbit

theorem renderLine_visible {c : Cart} {q p : Ppu} (h : renderLine c q = .ok p) (hl : onRenderLine q) : renderStep c q = .ok p :=
   (if_pos hl).symm.trans h

theorem renderLine_idle {c : Cart} {q p : Ppu} (h : renderLine c q = .ok p) (hl : ¬onRenderLine q) : p = q :=
  Except.ok.inj (h.symm.trans (if_neg hl))

/-! ### The moves of `v` -/

/-- `v` after the horizontal increment (R385). -/
def nextColumn (v : BitVec 15) : BitVec 15 :=
  if coarseX v = 31 then withNametableX (withCoarseX v 0) (!nametableX v) else withCoarseX v (coarseX v + 1)

/-- `v` after the vertical increment (R386). -/
def nextLine (v : BitVec 15) : BitVec 15 :=
  if (fineY v).toNat < 7 then withFineY v (fineY v + 1)
  else if coarseY (withFineY v 0) = 29 then withNametableY (withCoarseY (withFineY v 0) 0) (!nametableY (withFineY v 0))
  else if coarseY (withFineY v 0) = 31 then withCoarseY (withFineY v 0) 0
  else withCoarseY (withFineY v 0) (coarseY (withFineY v 0) + 1)

section
variable (q : Ppu)

theorem incrementX_eq : incrementX q = { q with v := if q.rendering then nextColumn q.v else q.v } := by
  unfold incrementX nextColumn
  split
  · split <;> rfl
  · rfl

theorem incrementY_eq : incrementY q = { q with v := if q.rendering then nextLine q.v else q.v } := by
  unfold incrementY nextLine
  split
  · simp only
    repeat' split
    all_goals rfl
  · rfl

theorem transferX_eq : transferX q = { q with
    v := if q.rendering then withCoarseX (withNametableX q.v (nametableX q.t)) (coarseX q.t) else q.v } := by
  unfold transferX
  split <;> rfl

theorem transferY_eq : transferY q = { q with
    v := if q.rendering then withCoarseY (withNametableY (withFineY q.v (fineY q.t)) (nametableY q.t)) (coarseY q.t) else q.v } := by
  unfold transferY
  split <;> rfl

end

/-- A background shifter moved up by one where background rendering is on (R384). -/
def shifted (q : Ppu) (r : BitVec 16) : BitVec 16 := if q.renderBackground then r <<< 1 else r

/-- `UpdateShifters`, field by field (R384). -/
theorem updateShifters_eq (q : Ppu) : updateShifters q = { q with
    bgPatLo := shifted q q.bgPatLo, bgPatHi := shifted q q.bgPatHi
    bgAttLo := shifted q q.bgAttLo, bgAttHi := shifted q q.bgAttHi, spr := (shiftSprites q).spr } := by
  have hback : shiftBackground q = { q with
      bgPatLo := shifted q q.bgPatLo, bgPatHi := shifted q q.bgPatHi
      bgAttLo := shifted q q.bgAttLo, bgAttHi := shifted q q.bgAttHi } := by
    unfold shiftBackground shifted
    split <;> rfl
  rw [updateShifters, hback]
  unfold shiftSprites
  split
  · rename_i hs
    rw [if_pos (by exact hs)]
  · rename_i hs
    rw [if_neg (by exact hs)]

/-- `p` agrees with `q` in what the scroll updates depend on. -/
structure SameScroll (q p : Ppu) : Prop where
  v : p.v = q.v
  t : p.t = q.t
  mask : p.mask = q.mask

theorem RenderPart.sameScroll {q p : Ppu} (h : RenderPart q p) (hv : p.v = q.v) : SameScroll q p :=
  ⟨hv, by rw [h.frame], h.mask⟩

section
variable {q p : Ppu} (h : SameScroll q p)
include h

theorem SameScroll.rendering : p.rendering = q.rendering := by
  unfold Ppu.rendering Ppu.renderBackground Ppu.renderSprites
  rw [h.mask]

theorem SameScroll.incrementX_v : (incrementX p).v = (incrementX q).v := by
  rw [incrementX_eq, incrementX_eq, h.rendering, h.v]

theorem SameScroll.incrementY_v : (incrementY p).v = (incrementY q).v := by
  rw [incrementY_eq, incrementY_eq, h.rendering, h.v]

theorem SameScroll.transferX_v : (transferX p).v = (transferX q).v := by
  rw [transferX_eq, transferX_eq, h.rendering, h.v, h.t]

theorem SameScroll.transferY_v : (transferY p).v = (transferY q).v := by
  rw [transferY_eq, transferY_eq, h.rendering, h.v, h.t]

end

theorem inFetchWindow_iff (n : Nat) : inFetchWindow n = true ↔ 2 ≤ n ∧ n ≤ 257 ∨ 321 ≤ n ∧ n ≤ 337 := by
  simp only [inFetchWindow, Bool.or_eq_true, Bool.and_eq_true, decide_eq_true_eq]

section
variable {c : Cart} {q p : Ppu}

/-- Where a phase of a tile reads its byte, if it reads one (R380 to R382). -/
def tileFetchAddr (q : Ppu) (k : Nat) : Option Word :=
  match k with
  | 0 => some (nametableAddr q.v)
  | 2 => some (attributeAddr q.v)
  | 4 => some (backgroundPatternAddr q)
  | 6 => some (backgroundPatternAddr q + 8)
  | _ => none

/-- What phase `k` of a tile leaves, field by field, when the byte it reads is `b` (R380, D38). -/
def afterPhase (q : Ppu) (k : Nat) (b : Byte) : Ppu :=
  { q with
    bgPatLo := if k = 0 then loadLow q.bgPatLo q.ntLsb else q.bgPatLo
    bgPatHi := if k = 0 then loadLow q.bgPatHi q.ntMsb else q.bgPatHi
    bgAttLo := if k = 0 then loadLow q.bgAttLo (if q.ntAttr.getLsbD 0 then 0xFF else 0x00) else q.bgAttLo
    bgAttHi := if k = 0 then loadLow q.bgAttHi (if q.ntAttr.getLsbD 1 then 0xFF else 0x00) else q.bgAttHi
    ntId := if k = 0 then b else q.ntId
    ntAttr := if k = 2 then attributeQuadrant q.v b else q.ntAttr
    ntLsb := if k = 4 then b else q.ntLsb
    ntMsb := if k = 6 then b else q.ntMsb
    v := if k = 7 then (incrementX q).v else q.v }

theorem backgroundFetch_eq {k : Nat} (h : backgroundFetch c k q = .ok p) :
    ∃ b, (∀ a, tileFetchAddr q k = some a → ppuRead c q a = .ok b) ∧ p = afterPhase q k b := by
  unfold backgroundFetch at h
  split at h
  case h_5 =>
    cases h
    have hx : incrementX q = { q with v := (incrementX q).v } := by rw [incrementX_eq]
    exact ⟨0, nofun, hx⟩
  case h_6 h0 h2 h4 h6 h7 =>
    cases h
    refine ⟨0, ?_, ?_⟩
    · have hnone : tileFetchAddr q k = none := by
        unfold tileFetchAddr
        split <;> trivial
      rw [hnone]
      nofun
    · simp only [afterPhase, if_neg h0, if_neg h2, if_neg h4, if_neg h6, if_neg h7]
  all_goals
    obtain ⟨b, hb, h⟩ := Run.bind_ok h
    cases h
    exact ⟨b, fun a ha => by cases ha; exact hb, rfl⟩

/-- A tile's last phase moves `v` to the next column (D38), and no other phase moves it. -/
theorem renderTile_v (h : renderTile c q = .ok p) :
    p.v = if (2 ≤ q.cycle ∧ q.cycle ≤ 257 ∨ 321 ≤ q.cycle ∧ q.cycle ≤ 337) ∧ (q.cycle - 1) % 8 = 7 then (incrementX q).v
      else q.v := by
  unfold renderTile at h
  split at h
  · rename_i hw
    have hscroll := (updateShifters_part q).sameScroll (by rw [updateShifters_eq])
    obtain ⟨b, _, rfl⟩ := backgroundFetch_eq h
    rw [afterPhase, hscroll.incrementX_v, hscroll.v]
    exact if_congr (iff_and_self.2 fun _ => (inFetchWindow_iff _).1 hw) rfl rfl
  · rename_i hw
    cases h
    rw [if_neg fun hn => hw ((inFetchWindow_iff _).2 hn.1)]

/-- Cycle 256 moves `v` to the next line, and cycle 257 takes the horizontal fields of `t` (R361). -/
theorem renderScroll_v (q : Ppu) : (renderScroll q).v =
    if q.cycle = 256 then (incrementY q).v else if q.cycle = 257 then (transferX q).v else q.v := by
  have hload : (transferX (loadBgShifters q)).v = (transferX q).v := by
    rw [transferX_eq, transferX_eq]
    rfl
  rw [renderScroll, apply_ite Ppu.v, apply_ite Ppu.v, hload]

theorem renderUnused_v (h : renderUnused c q = .ok p) : p.v = q.v := by
  unfold renderUnused at h
  split at h
  · obtain ⟨b, _, h⟩ := Run.bind_ok h
    cases h
    rfl
  · cases h
    rfl

/-- The pre-render line takes the vertical fields of `t` (R361). -/
theorem renderVertical_v (q : Ppu) : (renderVertical q).v =
    if q.scanline = -1 ∧ 280 ≤ q.cycle ∧ q.cycle ≤ 304 then (transferY q).v else q.v := by
  rw [renderVertical, apply_ite Ppu.v]

/-- The render step after its pre-render clear: the odd-frame skip and the clear leave `v` and the line, and the cycle but for a skip of
cycle 0. -/
theorem renderClear_start (q : Ppu) : SameScroll q (renderClear (oddFrameSkip q)) ∧
    (renderClear (oddFrameSkip q)).scanline = q.scanline ∧
    ((renderClear (oddFrameSkip q)).cycle = q.cycle ∨
      (q.scanline = 0 ∧ q.cycle = 0 ∧ (renderClear (oddFrameSkip q)).cycle = 1)) := by
  have hpart := renderClear_part (oddFrameSkip q)
  obtain ⟨hline, hcycle⟩ := oddFrameSkip_counters q
  rw [← hpart.scanline] at hline
  rw [← hpart.cycle] at hcycle
  refine ⟨⟨?_, ?_, ?_⟩, hline, hcycle⟩
  · obtain ⟨_, _, he⟩ | ⟨_, he⟩ := renderClear_cases (oddFrameSkip q) <;> rw [he, oddFrameSkip_part]
    rfl
  · rw [hpart.frame, oddFrameSkip_part]
  · rw [hpart.mask, oddFrameSkip_part]

/-- The cycles of the render step that move `v`, and how (R361). -/
def movedV (q : Ppu) : BitVec 15 :=
  if q.scanline = -1 ∧ 280 ≤ q.cycle ∧ q.cycle ≤ 304 then (transferY q).v
  else if q.cycle = 256 then (incrementY (incrementX q)).v
  else if q.cycle = 257 then (transferX q).v
  else if q.cycle % 8 = 0 ∧ (8 ≤ q.cycle ∧ q.cycle ≤ 248 ∨ q.cycle = 328 ∨ q.cycle = 336) then (incrementX q).v
  else q.v

theorem renderStep_v (h : renderStep c q = .ok p) : p.v = movedV q := by
  obtain ⟨q1, h1, h⟩ := Run.bind_ok h
  obtain ⟨q2, h2, h⟩ := Run.bind_ok h
  obtain ⟨hstart, hline, hcycle⟩ := renderClear_start q
  have hpart1 := renderTile_part h1
  have hpart2 := hpart1.trans ((renderScroll_part q1).trans (renderUnused_part h2))
  have htile := renderTile_v h1
  have hscroll := (renderUnused_v h2).trans (renderScroll_v q1)
  have hlast : p.v = (renderVertical q2).v := by rw [renderSpriteWork_frame h]
  rw [renderVertical_v, hpart2.scanline, hpart2.cycle, hline] at hlast
  rw [hpart1.cycle] at hscroll
  rw [hstart.incrementX_v, hstart.v] at htile
  have hmask : q1.mask = q.mask := hpart1.mask.trans hstart.mask
  have ht : q1.t = q.t := (show q1.t = _ by rw [hpart1.frame]).trans hstart.t
  generalize (renderClear (oddFrameSkip q)).cycle = n at *
  unfold movedV
  split_ifs with hv h256 h257 hx
  · rw [if_neg (by omega)] at htile
    rw [if_neg (by omega), if_neg (by omega), htile] at hscroll
    have hsame : SameScroll q q2 := ⟨hscroll, (show q2.t = _ by rw [hpart2.frame]).trans hstart.t, hpart2.mask.trans hstart.mask⟩
    rw [hlast, if_pos (by omega), hsame.transferY_v]
  · rw [if_pos (by omega)] at htile
    have hsame : SameScroll (incrementX q) q1 := by
      rw [incrementX_eq] at htile ⊢
      exact ⟨htile, ht, hmask⟩
    rw [hlast, if_neg (by omega), hscroll, if_pos (by omega), hsame.incrementY_v]
  · rw [if_neg (by omega)] at htile
    have hsame : SameScroll q q1 := ⟨htile, ht, hmask⟩
    rw [hlast, if_neg (by omega), hscroll, if_neg (by omega), if_pos (by omega), hsame.transferX_v]
  · rw [hlast, if_neg (by omega), hscroll, if_neg (by omega), if_neg (by omega), htile, if_pos (by omega)]
  · rw [hlast, if_neg (by omega), hscroll, if_neg (by omega), if_neg (by omega), htile, if_neg (by omega)]

end

end Sys2Proof.Machine
end

section
/-! Proofs, part 51: the statement about the frame of rendering settled. -/

namespace Sys2Proof.Settled

open Sys2Proof.Machine Sys2Proof.Claims

/-- Settles O41: what `RenderPart` leaves in place, the moves of `v` (`renderStep_v`), and the request (`ppuClock_nmiReq`). -/
theorem renderingFrame : Obligations.RenderingFrame := by
  intro c q q' h
  have hnmi := ppuClock_nmiReq h
  have hv : q'.v = if -1 ≤ q.scanline ∧ q.scanline ≤ 239 then movedV q else q.v := by
    obtain ⟨p, hp, hq', _⟩ := ppuClock_rendered h
    have hpv : q'.v = p.v := by rw [hq']
    rw [hpv]
    split
    · exact renderStep_v (renderLine_visible hp ‹_›)
    · rw [renderLine_idle hp ‹_›]
  obtain ⟨q2, rfl, hpart⟩ := ppuClock_effect h
  have hstill : (q.mask.getLsbD 3 || q.mask.getLsbD 4) = false → (advance q2).v = q.v := by
    intro hoff
    rw [advance_frame]
    refine (hpart.still ?_).trans ?_ <;> rw [oddFrameSkip_part]
    exact hoff
  refine ⟨?_, ?_, ?_, ?_, ?_, ?_, ?_, ?_, ?_, ?_, ?_, ?_, ?_, hstill, hv, hnmi⟩
  all_goals rw [advance_frame, hpart.frame, oddFrameSkip_part]

end Sys2Proof.Settled
end

section
/-! Proofs, part 52: the background pipeline in a PPU cycle (60_exceptions.md R380 to R384). -/

namespace Sys2Proof.Machine

open Sys2Proof.Claims

/-! ### The fetch addresses -/

/-- The address of the nametable byte, as a number (R380). -/
theorem nametableAddr_eq (v : BitVec 15) : nametableAddr v = BitVec.ofNat 16 (0x2000 + v.toNat % 4096) := by
  have hoffset : (v.setWidth 16 &&& 0x0FFF : Word).toNat = v.toNat % 4096 := by
    rw [toNat_and_lowMask _ _ 12 rfl, BitVec.toNat_setWidth_of_le (by decide)]
    rfl
  apply BitVec.eq_of_toNat_eq
  rw [nametableAddr, BitVec.toNat_or, hoffset, BitVec.toNat_ofNat]
  exact (Nat.two_pow_add_eq_or_of_lt (i := 13) (by omega) 1).symm.trans (by omega)

/-- The address of the attribute byte, as a number (R381). -/
theorem attributeAddr_eq (v : BitVec 15) : attributeAddr v =
    BitVec.ofNat 16 (0x23C0 + v.toNat / 1024 % 4 * 1024 + v.toNat / 128 % 8 * 8 + v.toNat / 4 % 8) := by
  have htable : (0x23C0 ||| ((BitVec.ofBool (nametableY v)).setWidth 16 <<< 11) ||| ((BitVec.ofBool (nametableX v)).setWidth 16 <<< 10) : Word).toNat
      = 2 ^ 6 * (143 + v.toNat / 1024 % 4 * 16) := by
    have hx := nametableX_toNat v
    have hy := nametableY_toNat v
    have hpair : v.toNat / 1024 % 4 = (nametableY v).toNat * 2 + (nametableX v).toNat := by omega
    rw [hpair]
    cases nametableY v <;> cases nametableX v <;> rfl
  have hrow : (((coarseY v >>> 2).setWidth 16) <<< 3 : Word).toNat = 2 ^ 3 * (v.toNat / 128 % 8) := by
    rw [BitVec.toNat_shiftLeft, BitVec.toNat_setWidth_of_le (by decide), BitVec.toNat_ushiftRight, coarseY_toNat,
      Nat.shiftRight_eq_div_pow, Nat.shiftLeft_eq]
    omega
  have hcolumn : ((coarseX v >>> 2).setWidth 16 : Word).toNat = v.toNat / 4 % 8 := by
    rw [BitVec.toNat_setWidth_of_le (by decide), BitVec.toNat_ushiftRight, coarseX_toNat, Nat.shiftRight_eq_div_pow]
    omega
  apply BitVec.eq_of_toNat_eq
  have hregroup : 2 ^ 6 * (143 + v.toNat / 1024 % 4 * 16) + 2 ^ 3 * (v.toNat / 128 % 8) =
    2 ^ 3 * (8 * (143 + v.toNat / 1024 % 4 * 16) + v.toNat / 128 % 8) := by omega
  rw [attributeAddr, BitVec.toNat_or, BitVec.toNat_or, htable, hrow, hcolumn, ← Nat.two_pow_add_eq_or_of_lt (by omega), hregroup,
    ← Nat.two_pow_add_eq_or_of_lt (by omega), BitVec.toNat_ofNat]
  omega

/-- A byte moved down in one of two cases, as a number. -/
theorem toNat_shiftRight_if (cond : Prop) [Decidable cond] (b : Byte) (k : Nat) :
    (if cond then b >>> k else b).toNat = b.toNat / (if cond then 2 ^ k else 1) := by
  split
  · rw [BitVec.toNat_ushiftRight, Nat.shiftRight_eq_div_pow]
  · rw [Nat.div_one]

/-- The palette number of the tile's quadrant, as a number (R381). -/
theorem attributeQuadrant_toNat (v : BitVec 15) (b : Byte) : (attributeQuadrant v b).toNat =
    b.toNat / (if v.toNat / 64 % 2 = 1 then 16 else 1) / (if v.toNat / 2 % 2 = 1 then 4 else 1) % 4 := by
  have hlow : (coarseY v).getLsbD 1 = decide (v.toNat / 64 % 2 = 1) := by
    rw [BitVec.getLsbD, coarseY_toNat, Nat.testBit_eq_decide_div_mod_eq, decide_eq_decide]
    omega
  have hright : (coarseX v).getLsbD 1 = decide (v.toNat / 2 % 2 = 1) := by
    rw [BitVec.getLsbD, coarseX_toNat, Nat.testBit_eq_decide_div_mod_eq, decide_eq_decide]
    omega
  have hmask : ∀ x : Byte, (x &&& 0x03).toNat = x.toNat % 4 := by decide
  simp only [attributeQuadrant, hmask, toNat_shiftRight_if, hlow, hright, decide_eq_true_eq]
  rfl

/-- The address of the tile's pattern row, as a number (R380, R382). -/
theorem backgroundPatternAddr_eq (q : Ppu) : backgroundPatternAddr q =
    BitVec.ofNat 16 ((q.ctrl.getLsbD 4).toNat * 4096 + q.ntId.toNat * 16 + q.v.toNat / 4096) := by
  have htable : ((BitVec.ofBool q.patternBackground).setWidth 16 <<< 12 : Word).toNat = (q.ctrl.getLsbD 4).toNat * 4096 := by
    rw [Ppu.patternBackground]
    cases q.ctrl.getLsbD 4 <;> rfl
  have htile : (q.ntId.setWidth 16 <<< 4 : Word).toNat = q.ntId.toNat * 16 := by
    have hid := q.ntId.isLt
    rw [BitVec.toNat_shiftLeft, BitVec.toNat_setWidth_of_le (by decide), Nat.shiftLeft_eq]
    omega
  apply BitVec.eq_of_toNat_eq
  rw [backgroundPatternAddr, BitVec.toNat_add, BitVec.toNat_add, htable, htile, BitVec.toNat_setWidth_of_le (by decide), fineY_toNat,
    BitVec.toNat_ofNat, Nat.mod_add_mod]

/-! ### The shifters -/

theorem loadLow_toNat (r : BitVec 16) (b : Byte) : (loadLow r b).toNat = r.toNat / 256 * 256 + b.toNat := by
  have hlow : (b.setWidth 16 : Word).toNat = b.toNat := BitVec.toNat_setWidth_of_le (by decide)
  have hzero : (0x00 : Byte).toNat = 0 := rfl
  have hhigh : (r &&& 0xFF00).toNat = 2 ^ 8 * (r.toNat / 256) := by
    rw [and_pageMask, wordOf_toNat, highByte_toNat, hzero]
    omega
  rw [loadLow, BitVec.toNat_or, hhigh, hlow, ← Nat.two_pow_add_eq_or_of_lt b.isLt, Nat.mul_comm]

/-- Loading a tile twice is loading it once. -/
theorem loadLow_loadLow (r : BitVec 16) (b : Byte) : loadLow (loadLow r b) b = loadLow r b := by
  have hb := b.isLt
  apply BitVec.eq_of_toNat_eq
  rw [loadLow_toNat, loadLow_toNat]
  omega

theorem shifted_toNat (q : Ppu) (r : BitVec 16) :
    (shifted q r).toNat = if q.mask.getLsbD 3 then 2 * r.toNat % 65536 else r.toNat := by
  unfold shifted
  split
  · rename_i h
    rw [if_pos (by exact h), BitVec.toNat_shiftLeft, Nat.shiftLeft_eq, Nat.mul_comm]
  · rename_i h
    rw [if_neg (by exact h)]

/-- A shifter after a cycle, from what its moves are in the tile window and elsewhere (R383, R384). -/
theorem shifterAfter_of {q : Ppu} {old new : BitVec 16} {low : Byte} (hout : ¬inTileWindow q → new = old)
    (hin : inTileWindow q → new = if (q.cycle - 1) % 8 = 0 then loadLow (shifted q old) low else shifted q old) :
    shifterAfter q old low new := by
  refine ⟨hout, fun hw n hn => ?_⟩
  rw [hn, ← shifted_toNat, hin hw]
  split
  · exact loadLow_toNat _ _
  · rfl

/-! ### The background pipeline after a cycle -/

/-- `p` has the background pipeline of `q`. -/
structure SameTiles (q p : Ppu) : Prop where
  patLo : p.bgPatLo = q.bgPatLo := by rfl
  patHi : p.bgPatHi = q.bgPatHi := by rfl
  attLo : p.bgAttLo = q.bgAttLo := by rfl
  attHi : p.bgAttHi = q.bgAttHi := by rfl
  ntId : p.ntId = q.ntId := by rfl
  ntAttr : p.ntAttr = q.ntAttr := by rfl
  ntLsb : p.ntLsb = q.ntLsb := by rfl
  ntMsb : p.ntMsb = q.ntMsb := by rfl

theorem SameTiles.refl (q : Ppu) : SameTiles q q := {}

theorem SameTiles.trans {q p p' : Ppu} (h : SameTiles q p) (h' : SameTiles p p') : SameTiles q p' :=
  ⟨h'.patLo.trans h.patLo, h'.patHi.trans h.patHi, h'.attLo.trans h.attLo, h'.attHi.trans h.attHi, h'.ntId.trans h.ntId,
    h'.ntAttr.trans h.ntAttr, h'.ntLsb.trans h.ntLsb, h'.ntMsb.trans h.ntMsb⟩

theorem SameTiles.ite {q p p' : Ppu} (cond : Prop) [Decidable cond] (h : SameTiles q p) (h' : SameTiles q p') :
    SameTiles q (if cond then p else p') := by
  split
  · exact h
  · exact h'

theorem incrementY_tiles (q : Ppu) : SameTiles q (incrementY q) := by
  rw [incrementY_eq]
  exact {}

theorem transferX_tiles (q : Ppu) : SameTiles q (transferX q) := by
  rw [transferX_eq]
  exact {}

theorem renderVertical_tiles (q : Ppu) : SameTiles q (renderVertical q) := by
  refine SameTiles.ite _ ?_ (SameTiles.refl q)
  rw [transferY_eq]
  exact {}

theorem preRenderClear_tiles (q : Ppu) : SameTiles q (preRenderClear q) := {}

theorem oddFrameSkip_tiles (q : Ppu) : SameTiles q (oddFrameSkip q) := by
  rw [oddFrameSkip_part]
  exact {}

/-- From cycle 2 on nothing precedes the tile's work in a render step. -/
theorem renderClear_oddFrameSkip_late {q : Ppu} (h : 2 ≤ q.cycle) : renderClear (oddFrameSkip q) = q := by
  have hskip : oddFrameSkip q = q := if_neg (by omega)
  rw [hskip]
  exact if_neg (by omega)

section
variable {c : Cart} {q p : Ppu}

theorem renderSpriteWork_tiles (h : renderSpriteWork c q = .ok p) : SameTiles q p := by
  rw [renderSpriteWork_frame h]
  exact {}

/-- The second load of cycle 257 finds the tile of that cycle's first phase loaded. -/
theorem loadBgShifters_afterPhase (u : Ppu) (b : Byte) : SameTiles (afterPhase u 0 b) (loadBgShifters (afterPhase u 0 b)) :=
  { patLo := loadLow_loadLow _ _, patHi := loadLow_loadLow _ _, attLo := loadLow_loadLow _ _, attHi := loadLow_loadLow _ _ }

theorem renderScroll_tiles (u : Ppu) (b : Byte) :
    SameTiles (afterPhase u ((u.cycle - 1) % 8) b) (renderScroll (afterPhase u ((u.cycle - 1) % 8) b)) := by
  refine SameTiles.ite _ (incrementY_tiles _) ?_
  split
  · rename_i h257
    have hcycle : u.cycle = 257 := h257
    rw [hcycle]
    exact (loadBgShifters_afterPhase u b).trans (transferX_tiles _)
  · exact SameTiles.refl _

/-- A render step in the tile window: the shifters move, then the tile's phase (R361). -/
theorem renderStep_inWindow (h : renderStep c q = .ok p) (hw : 2 ≤ q.cycle ∧ q.cycle ≤ 257 ∨ 321 ≤ q.cycle ∧ q.cycle ≤ 337) :
    ∃ b, (∀ a, tileFetchAddr q ((q.cycle - 1) % 8) = some a → ppuRead c q a = .ok b) ∧
      SameTiles (afterPhase (updateShifters q) ((q.cycle - 1) % 8) b) p := by
  obtain ⟨q1, h1, h⟩ := Run.bind_ok h
  obtain ⟨q2, h2, h⟩ := Run.bind_ok h
  rw [renderClear_oddFrameSkip_late (by omega), renderTile, if_pos ((inFetchWindow_iff _).2 hw)] at h1
  obtain ⟨b, hb, rfl⟩ := backgroundFetch_eq h1
  have hpart := updateShifters_part q
  have hscroll := renderScroll_tiles (updateShifters q) b
  rw [hpart.cycle] at hscroll
  have hcycle : (renderScroll (afterPhase (updateShifters q) ((q.cycle - 1) % 8) b)).cycle = q.cycle :=
    (renderScroll_part _).cycle.trans hpart.cycle
  rw [renderUnused, hcycle, if_neg (by omega)] at h2
  cases h2
  refine ⟨b, fun a ha => ?_, (hscroll.trans (renderVertical_tiles _)).trans (renderSpriteWork_tiles h)⟩
  rw [← hpart.ppuRead]
  refine hb a ?_
  rw [updateShifters_eq]
  exact ha

/-- A render step outside the tile window: only the unused nametable fetches (R361). -/
theorem renderStep_outside (h : renderStep c q = .ok p) (hw : ¬(2 ≤ q.cycle ∧ q.cycle ≤ 257 ∨ 321 ≤ q.cycle ∧ q.cycle ≤ 337)) :
    (q.cycle = 338 ∨ q.cycle = 340 → ppuRead c q (nametableAddr q.v) = .ok p.ntId) ∧
    (¬(q.cycle = 338 ∨ q.cycle = 340) → p.ntId = q.ntId) ∧ SameTiles { q with ntId := p.ntId } p := by
  obtain ⟨q1, h1, h⟩ := Run.bind_ok h
  obtain ⟨q2, h2, h⟩ := Run.bind_ok h
  have hlast := (renderVertical_tiles q2).trans (renderSpriteWork_tiles h)
  obtain ⟨-, -, hcycle⟩ := renderClear_start q
  have hstart : SameTiles q (renderClear (oddFrameSkip q)) :=
    (oddFrameSkip_tiles q).trans (SameTiles.ite _ (preRenderClear_tiles _) (SameTiles.refl _))
  rw [renderTile, if_neg (by rw [inFetchWindow_iff]; omega)] at h1
  cases h1
  rw [renderScroll, if_neg (by omega), if_neg (by omega)] at h2
  unfold renderUnused at h2
  split at h2
  · rename_i hunused
    obtain ⟨b, hb, h2⟩ := Run.bind_ok h2
    cases h2
    rw [renderClear_oddFrameSkip_late (by omega)] at hunused hb hlast
    have hid : p.ntId = b := hlast.ntId
    refine ⟨fun _ => hid ▸ hb, fun hn => absurd hunused hn, ?_⟩
    rw [hid]
    exact hlast
  · cases h2
    have hall := hstart.trans hlast
    refine ⟨fun _ => by omega, fun _ => hall.ntId, ?_⟩
    rw [hall.ntId]
    exact hall

end

section
variable {c : Cart} {q q' : Ppu}

theorem ppuClock_tiles (h : ppuClock c q = .ok q') : ∃ p, renderLine c q = .ok p ∧ SameTiles p q' := by
  obtain ⟨p, hp, hq', -⟩ := ppuClock_rendered h
  refine ⟨p, hp, ?_⟩
  rw [hq']
  exact {}

theorem ppuClock_inTileWindow (h : ppuClock c q = .ok q') (hw : inTileWindow q) :
    ∃ b, (∀ a, tileFetchAddr q ((q.cycle - 1) % 8) = some a → ppuRead c q a = .ok b) ∧
      SameTiles (afterPhase (updateShifters q) ((q.cycle - 1) % 8) b) q' := by
  obtain ⟨p, hp, htiles⟩ := ppuClock_tiles h
  obtain ⟨hline, hcycle⟩ := hw
  obtain ⟨b, hb, hphase⟩ := renderStep_inWindow (renderLine_visible hp hline) hcycle
  exact ⟨b, hb, hphase.trans htiles⟩

theorem ppuClock_outsideTileWindow (h : ppuClock c q = .ok q') (hw : ¬inTileWindow q) :
    (onRenderLine q ∧ (q.cycle = 338 ∨ q.cycle = 340) → ppuRead c q (nametableAddr q.v) = .ok q'.ntId) ∧
    (¬(onRenderLine q ∧ (q.cycle = 338 ∨ q.cycle = 340)) → q'.ntId = q.ntId) ∧ SameTiles { q with ntId := q'.ntId } q' := by
  obtain ⟨p, hp, htiles⟩ := ppuClock_tiles h
  by_cases hline : onRenderLine q
  · obtain ⟨hread, hkept, hsame⟩ := renderStep_outside (renderLine_visible hp hline) fun hcycle => hw ⟨hline, hcycle⟩
    rw [← htiles.ntId] at hread hkept hsame
    exact ⟨fun hn => hread hn.2, fun hn => hkept fun hcycle => hn ⟨hline, hcycle⟩, hsame.trans htiles⟩
  · rw [renderLine_idle hp hline] at htiles
    refine ⟨fun hn => absurd hn.1 hline, fun _ => htiles.ntId, ?_⟩
    rw [htiles.ntId]
    exact htiles

end

end Sys2Proof.Machine
end

section
/-! Proofs, part 53: the statement about the background pipeline settled. -/

namespace Sys2Proof.Settled

open Sys2Proof.Machine Sys2Proof.Claims

/-- Settles O43: in the tile window the shifts and the phase of `afterPhase`, elsewhere at most the unused nametable fetch. -/
theorem backgroundPipeline : Obligations.BackgroundPipeline := by
  rintro c q q' h k v rfl rfl
  by_cases hw : inTileWindow q
  · obtain ⟨b, hb, hafter⟩ := ppuClock_inTileWindow h hw
    rw [updateShifters_eq] at hafter
    have hshift : ∀ {old new : BitVec 16} {low : Byte},
        new = (if (q.cycle - 1) % 8 = 0 then loadLow (shifted q old) low else shifted q old) → shifterAfter q old low new :=
      fun hnew => shifterAfter_of (fun hn => absurd hw hn) fun _ => hnew
    refine ⟨hshift hafter.patLo, hshift hafter.patHi, hshift hafter.attLo, hshift hafter.attHi, ?_, ?_, ?_, ?_, ?_, ?_, ?_⟩
    · intro hn
      have hk : (q.cycle - 1) % 8 = 0 := by
        obtain ⟨-, hk⟩ | ⟨-, hk⟩ := hn
        · exact hk
        · have hcycle := hw.2
          omega
      rw [← nametableAddr_eq, hafter.ntId, hk]
      exact hb _ (by rw [hk]; rfl)
    · rintro ⟨-, hk⟩
      refine ⟨b, ?_, ?_⟩
      · rw [← attributeAddr_eq]
        exact hb _ (by rw [hk]; rfl)
      · rw [hafter.ntAttr, hk]
        exact attributeQuadrant_toNat _ _
    · rintro a rfl
      refine ⟨?_, ?_⟩
      · rintro ⟨-, hk⟩
        rw [← backgroundPatternAddr_eq, hafter.ntLsb, hk]
        exact hb _ (by rw [hk]; rfl)
      · rintro ⟨-, hk⟩
        rw [BitVec.ofNat_add, ← backgroundPatternAddr_eq, hafter.ntMsb, hk]
        exact hb _ (by rw [hk]; rfl)
    · exact fun hk _ => hafter.ntId.trans (if_neg fun hn => hk ⟨hw, hn⟩)
    · exact fun hk => hafter.ntAttr.trans (if_neg fun hn => hk ⟨hw, hn⟩)
    · exact fun hk => hafter.ntLsb.trans (if_neg fun hn => hk ⟨hw, hn⟩)
    · exact fun hk => hafter.ntMsb.trans (if_neg fun hn => hk ⟨hw, hn⟩)
  · obtain ⟨hread, hkept, hsame⟩ := ppuClock_outsideTileWindow h hw
    have hshift : ∀ {old new : BitVec 16} {low : Byte}, new = old → shifterAfter q old low new :=
      fun hnew => shifterAfter_of (fun _ => hnew) fun hn => absurd hn hw
    refine ⟨hshift hsame.patLo, hshift hsame.patHi, hshift hsame.attLo, hshift hsame.attHi, ?_, ?_, ?_, ?_, ?_, ?_, ?_⟩
    · rintro (hn | hn)
      · exact absurd hn.1 hw
      · rw [← nametableAddr_eq]
        exact hread hn
    · exact fun hn => absurd hn.1 hw
    · exact fun _ _ => ⟨fun hn => absurd hn.1 hw, fun hn => absurd hn.1 hw⟩
    · exact fun _ hn => hkept hn
    · exact fun _ => hsame.ntAttr
    · exact fun _ => hsame.ntLsb
    · exact fun _ => hsame.ntMsb

end Sys2Proof.Settled
end

section
/-! Proofs, part 54: the sprite slots in a PPU cycle (60_exceptions.md R361, R370, R384, R390, R392). -/

namespace Sys2Proof.Machine

open Sys2Proof.Claims

/-! ### Slot by slot -/

theorem mapFirst_getElem? {α : Type} (f : α → α) (n : Nat) (l : List α) (i : Nat) :
    (mapFirst f n l)[i]? = if i < n then l[i]?.map f else l[i]? := by
  induction l generalizing n i with
  | nil => cases n <;> simp [mapFirst]
  | cons x l ih =>
    cases n with
    | zero => simp [mapFirst]
    | succ n =>
      cases i with
      | zero => simp [mapFirst]
      | succ i => simp [mapFirst, ih]

/-- One sprite's counter falls, or at 0 its shifters move (R384). -/
theorem SpriteSlot.shift_eq (s : SpriteSlot) : s.shift =
    if s.x = 0 then { s with patLo := BitVec.ofNat 8 (2 * s.patLo.toNat), patHi := BitVec.ofNat 8 (2 * s.patHi.toNat) }
    else { s with x := s.x - 1 } := by
  have hdouble : ∀ b : Byte, b <<< 1 = BitVec.ofNat 8 (2 * b.toNat) := by decide
  unfold SpriteSlot.shift
  split
  · rename_i hx
    rw [if_neg fun h0 => by simp [h0] at hx]
  · rename_i hx
    rw [if_pos (BitVec.eq_of_toNat_eq (Nat.eq_zero_of_not_pos hx)), hdouble, hdouble]

theorem fetchSprites_getElem? {c : Cart} {q : Ppu} {n : Nat} {l l' : List SpriteSlot} (h : fetchSprites c q n l = .ok l') (i : Nat) :
    (n ≤ i → l'[i]? = l[i]?) ∧
    (i < n → ∀ s s', l[i]? = some s → l'[i]? = some s' → fetchSprite c q s = .ok s') := by
  induction l generalizing n l' i with
  | nil =>
    have hl : l' = [] := List.length_eq_zero_iff.1 (fetchSprites_length h)
    rw [hl]
    exact ⟨fun _ => rfl, fun _ s s' hs => by cases hs⟩
  | cons x l ih =>
    cases n with
    | zero =>
      cases h
      exact ⟨fun _ => rfl, fun hi => absurd hi (Nat.not_lt_zero i)⟩
    | succ n =>
      obtain ⟨x', hx, h⟩ := Run.bind_ok h
      obtain ⟨m, hm, h⟩ := Run.bind_ok h
      cases h
      cases i with
      | zero =>
        refine ⟨fun hi => absurd hi (by omega), fun _ s s' hs hs' => ?_⟩
        cases hs
        cases hs'
        exact hx
      | succ i =>
        obtain ⟨hkept, hfetched⟩ := ih hm i
        exact ⟨fun hi => hkept (by omega), fun hi => hfetched (by omega)⟩

/-! ### Tile work and the slots -/

/-- The slots after the shifts of a cycle (R361, R384). -/
def movedSlots (q : Ppu) : List SpriteSlot :=
  if 2 ≤ q.cycle ∧ q.cycle ≤ 257 ∧ q.mask.getLsbD 4 then mapFirst SpriteSlot.shift q.sprCount.val q.spr else q.spr

theorem updateShifters_spr {q : Ppu} (h : 2 ≤ q.cycle) : (updateShifters q).spr = movedSlots q := by
  have hmask : q.renderSprites = q.mask.getLsbD 4 := rfl
  rw [updateShifters_eq, movedSlots, shiftSprites, hmask, apply_ite Ppu.spr]
  exact if_congr ⟨fun ⟨hm, _, hh⟩ => ⟨h, hh, hm⟩, fun ⟨_, hh, hm⟩ => ⟨hm, Nat.le_of_succ_le h, hh⟩⟩ rfl rfl

section
variable {c : Cart} {q p : Ppu}

theorem renderTile_spr (h : renderTile c q = .ok p) : p.spr = movedSlots q := by
  unfold renderTile at h
  split at h
  · rename_i hw
    obtain ⟨b, -, rfl⟩ := backgroundFetch_eq h
    have hcycle := (inFetchWindow_iff _).1 hw
    exact updateShifters_spr (by omega)
  · rename_i hw
    rw [inFetchWindow_iff] at hw
    cases h
    exact (if_neg (by omega)).symm

theorem renderScroll_spr (q : Ppu) : (renderScroll q).spr = q.spr := by
  rw [renderScroll, incrementY_eq, transferX_eq]
  repeat' split
  all_goals rfl

theorem renderUnused_spr (h : renderUnused c q = .ok p) : p.spr = q.spr := by
  unfold renderUnused at h
  split at h
  · obtain ⟨b, -, h⟩ := Run.bind_ok h
    cases h
    rfl
  · cases h
    rfl

theorem renderVertical_spr (q : Ppu) : (renderVertical q).spr = q.spr := by
  rw [renderVertical, transferY_eq]
  split <;> rfl

/-- The render step, from the PPU the pre-render clear leaves: the slots move with the tile work, then comes the sprites' work. -/
theorem renderStep_slots (h : renderStep c q = .ok p) : ∃ r, TilePart (renderClear (oddFrameSkip q)) r ∧
    r.spr = movedSlots (renderClear (oddFrameSkip q)) ∧ renderSpriteWork c r = .ok p := by
  obtain ⟨q1, h1, h⟩ := Run.bind_ok h
  obtain ⟨q2, h2, h⟩ := Run.bind_ok h
  refine ⟨_, (((renderTile_tile h1).trans (renderScroll_tile q1)).trans (renderUnused_tile h2)).trans (renderVertical_tile q2), ?_, h⟩
  rw [renderVertical_spr, renderUnused_spr h2, renderScroll_spr, renderTile_spr h1]

section
variable {r : Ppu} (h : TilePart q r)
include h

theorem TilePart.cycle : r.cycle = q.cycle := by rw [h]
theorem TilePart.scanline : r.scanline = q.scanline := by rw [h]
theorem TilePart.sprCount : r.sprCount = q.sprCount := by rw [h]
theorem TilePart.spr0Possible : r.spr0Possible = q.spr0Possible := by rw [h]
theorem TilePart.oam : r.oam = q.oam := by rw [h]

theorem TilePart.spritesFound : Machine.spritesFound r = Machine.spritesFound q := by
  rw [h]
  rfl

theorem TilePart.fetchSprite (c : Cart) (s : SpriteSlot) : Machine.fetchSprite c r s = Machine.fetchSprite c q s := by
  rw [h]
  rfl

/-- Tile work does not change what sprite evaluation finds (R390, R391). -/
theorem TilePart.evaluation : (spriteEvaluate r).spr = (spriteEvaluate q).spr ∧
    (spriteEvaluate r).sprCount = (spriteEvaluate q).sprCount ∧
    (spriteEvaluate r).spr0Possible = (spriteEvaluate q).spr0Possible ∧
    (spriteEvaluate r).status.getLsbD overflowBit = (spriteEvaluate q).status.getLsbD overflowBit := by
  have hbit : ∀ (st : Byte) (b : Bool), (setBit st overflowBit b).getLsbD overflowBit = b := fun st b =>
    (getLsbD_setBit st (by decide) b).trans (if_pos rfl)
  simp only [spriteEvaluate_eq, h.spritesFound, h.oam, hbit, and_self]

end

/-! ### The sprites' work of a render step -/

/-- The pre-render clear empties the shifters and the count (R370, D37, D45). -/
theorem renderStep_clear (h : renderStep c q = .ok p) (hs : q.scanline = -1) (hc : q.cycle = 1) :
    p.sprCount = 0 ∧ p.spr0Possible = q.spr0Possible ∧ p.spr = q.spr.map (fun s => { s with patLo := 0, patHi := 0 }) := by
  obtain ⟨r, htile, hspr, hwork⟩ := renderStep_slots h
  have hclear : renderClear (oddFrameSkip q) = preRenderClear q := by
    rw [oddFrameSkip_of_ne (by omega)]
    exact if_pos ⟨hs, hc⟩
  rw [hclear] at htile hspr
  have hcycle : r.cycle = 1 := htile.cycle.trans hc
  rw [renderSpriteWork, if_neg (by omega), if_neg (by omega)] at hwork
  cases hwork
  exact ⟨htile.sprCount, htile.spr0Possible, hspr.trans (if_neg fun hn => by have : 2 ≤ q.cycle := hn.1; omega)⟩

/-- Cycle 257 of a visible line evaluates the sprites (R390). -/
theorem renderStep_evaluate (h : renderStep c q = .ok p) (hs : 0 ≤ q.scanline) (hc : q.cycle = 257) :
    p.spr = (spriteEvaluate q).spr ∧ p.sprCount = (spriteEvaluate q).sprCount ∧
    p.spr0Possible = (spriteEvaluate q).spr0Possible ∧
    p.status.getLsbD overflowBit = (spriteEvaluate q).status.getLsbD overflowBit := by
  obtain ⟨r, htile, -, hwork⟩ := renderStep_slots h
  rw [renderClear_oddFrameSkip_late (by omega)] at htile
  rw [renderSpriteWork, if_pos ⟨htile.cycle.trans hc, htile.scanline.symm ▸ hs⟩] at hwork
  cases hwork
  exact htile.evaluation

/-- Where neither the clear nor an evaluation is due, the slots come to the sprites' work moved. -/
theorem renderStep_moved (h : renderStep c q = .ok p) (hclear : ¬(q.scanline = -1 ∧ q.cycle = 1)) :
    ∃ r, r.scanline = q.scanline ∧ (r.cycle = q.cycle ∨ q.cycle = 0 ∧ r.cycle = 1) ∧ r.sprCount = q.sprCount ∧
      r.spr0Possible = q.spr0Possible ∧ r.spr = movedSlots q ∧
      (∀ s, fetchSprite c r s = fetchSprite c q s) ∧ renderSpriteWork c r = .ok p := by
  obtain ⟨r, htile, hspr, hwork⟩ := renderStep_slots h
  obtain hskip | ⟨hs, hc, hskip⟩ := oddFrameSkip_cases q
  · have hstart : renderClear (oddFrameSkip q) = q := by
      rw [hskip]
      exact if_neg hclear
    rw [hstart] at htile hspr
    exact ⟨r, htile.scanline, .inl htile.cycle, htile.sprCount, htile.spr0Possible, hspr, htile.fetchSprite c, hwork⟩
  · have hstart : renderClear (oddFrameSkip q) = { q with cycle := 1 } := by
      rw [hskip]
      exact if_neg (by simp [hs])
    have hmoved : movedSlots { q with cycle := 1 } = movedSlots q := by
      rw [movedSlots, movedSlots, if_neg (by simp), if_neg (by simp [hc])]
    rw [hstart] at htile hspr
    exact ⟨r, htile.scanline, .inr ⟨hc, htile.cycle⟩, htile.sprCount, htile.spr0Possible, hspr.trans hmoved, htile.fetchSprite c, hwork⟩

/-- Slot `i` is `s` before a cycle and `s'` after it, on a render line, with neither the clear nor an evaluation due (R384, R392). -/
def slotAfter (c : Cart) (q : Ppu) (i : Nat) (s s' : SpriteSlot) : Prop :=
  if i < q.sprCount.val ∧ q.cycle = 340 then fetchSprite c q s = .ok s'
  else s' = if i < q.sprCount.val ∧ 2 ≤ q.cycle ∧ q.cycle ≤ 257 ∧ q.mask.getLsbD 4 then s.shift else s

theorem movedSlots_length (q : Ppu) : (movedSlots q).length = q.spr.length := by
  rw [movedSlots, apply_ite List.length, mapFirst_length, ite_self]

theorem movedSlots_getElem? (q : Ppu) (i : Nat) : (movedSlots q)[i]? =
    if i < q.sprCount.val ∧ 2 ≤ q.cycle ∧ q.cycle ≤ 257 ∧ q.mask.getLsbD 4 then q.spr[i]?.map SpriteSlot.shift else q.spr[i]? := by
  unfold movedSlots
  split
  · rename_i hmoves
    rw [mapFirst_getElem?]
    exact if_congr (and_iff_left hmoves).symm rfl rfl
  · rename_i hmoves
    exact (if_neg fun hn => hmoves hn.2).symm

theorem renderStep_elsewhere (h : renderStep c q = .ok p) (hclear : ¬(q.scanline = -1 ∧ q.cycle = 1))
    (heval : ¬(0 ≤ q.scanline ∧ q.cycle = 257)) :
    p.sprCount = q.sprCount ∧ p.spr0Possible = q.spr0Possible ∧ p.spr.length = q.spr.length ∧
    ∀ i s s', q.spr[i]? = some s → p.spr[i]? = some s' → slotAfter c q i s s' := by
  obtain ⟨r, hline, hcycle, hcount, hposs, hspr, hfetch, hwork⟩ := renderStep_moved h hclear
  rw [renderSpriteWork, if_neg (by omega)] at hwork
  split at hwork
  · have h340 : q.cycle = 340 := by omega
    have hstill : movedSlots q = q.spr := if_neg (by omega)
    obtain ⟨l, hl, hwork⟩ := Run.bind_ok hwork
    cases hwork
    rw [hcount, hspr, hstill] at hl
    refine ⟨hcount, hposs, fetchSprites_length hl, fun i s s' hs hs' => ?_⟩
    obtain ⟨hkept, hfetched⟩ := fetchSprites_getElem? hl i
    unfold slotAfter
    split
    · rename_i hi
      rw [← hfetch]
      exact hfetched hi.1 s s' hs hs'
    · rename_i hi
      rw [if_neg (by omega)]
      exact Option.some.inj (hs'.symm.trans ((hkept (by omega)).trans hs))
  · cases hwork
    refine ⟨hcount, hposs, by rw [hspr, movedSlots_length], fun i s s' hs hs' => ?_⟩
    rw [hspr, movedSlots_getElem?, hs, Option.map_some, ← apply_ite some] at hs'
    rw [slotAfter, if_neg (by omega)]
    exact (Option.some.inj hs').symm

end

end Sys2Proof.Machine
end

section
/-! Proofs, part 55: the statement about the sprite slots settled. -/

namespace Sys2Proof.Settled

open Sys2Proof.Machine Sys2Proof.Claims

/-- Settles O44: the render step's clear (`renderStep_clear`), its evaluation (`renderStep_evaluate`), and its shifts and fetches
elsewhere (`renderStep_elsewhere`); the rest of the cycle leaves the slots. -/
theorem spritePipeline : Obligations.SpritePipeline := by
  intro c q q' h
  obtain ⟨p, hp, hq', hbit⟩ := ppuClock_rendered h
  have hspr : q'.spr = p.spr := by rw [hq']
  have hcount : q'.sprCount = p.sprCount := by rw [hq']
  have hposs : q'.spr0Possible = p.spr0Possible := by rw [hq']
  rw [hspr, hcount, hposs]
  refine ⟨?_, ?_, ?_⟩
  · rintro ⟨hs, hc⟩
    have hline : onRenderLine q := ⟨by omega, by omega⟩
    exact renderStep_clear (renderLine_visible hp hline) hs hc
  · rintro ⟨hlow, hhigh, hc⟩
    have hline : onRenderLine q := ⟨by omega, hhigh⟩
    obtain ⟨hspr', hcount', hposs', hbit'⟩ := renderStep_evaluate (renderLine_visible hp hline) hlow hc
    exact ⟨hspr', hcount', hposs', hbit.trans hbit'⟩
  · intro hclear heval
    by_cases hline : onRenderLine q
    · have heval' : ¬(0 ≤ q.scanline ∧ q.cycle = 257) := fun hn => heval ⟨hn.1, hline.2, hn.2⟩
      obtain ⟨hcount', hposs', hlength, hslots⟩ := renderStep_elsewhere (renderLine_visible hp hline) hclear heval'
      refine ⟨hcount', hposs', hlength, fun i s s' hs hs' => ?_⟩
      have hslot := hslots i s s' hs hs'
      unfold slotAfter at hslot
      refine ⟨fun hi _ hc => ?_, fun hi _ hlow hhigh hmask => ?_, fun hidle => ?_⟩
      · rwa [if_pos ⟨hi, hc⟩] at hslot
      · rw [if_neg (by omega), if_pos ⟨hi, hlow, hhigh, hmask⟩] at hslot
        rw [hslot, SpriteSlot.shift_eq]
      · have hquiet : q.sprCount.val ≤ i ∨ ¬(q.cycle = 340 ∨ 2 ≤ q.cycle ∧ q.cycle ≤ 257 ∧ q.mask.getLsbD 4 = true) :=
          hidle.imp_right fun hn => hn.resolve_left (not_not_intro hline)
        have hnofetch : ¬(i < q.sprCount.val ∧ q.cycle = 340) := fun hn =>
          hquiet.elim (Nat.not_le_of_lt hn.1) fun hq => hq (.inl hn.2)
        have hnoshift : ¬(i < q.sprCount.val ∧ 2 ≤ q.cycle ∧ q.cycle ≤ 257 ∧ q.mask.getLsbD 4 = true) := fun hn =>
          hquiet.elim (Nat.not_le_of_lt hn.1) fun hq => hq (.inr hn.2)
        rwa [if_neg hnofetch, if_neg hnoshift] at hslot
    · cases renderLine_idle hp hline
      refine ⟨rfl, rfl, rfl, fun i s s' hs hs' => ⟨fun _ hn => absurd hn hline, fun _ hn => absurd hn hline, fun _ => ?_⟩⟩
      exact Option.some.inj (hs'.symm.trans hs)

end Sys2Proof.Settled
end

section
/-! Proofs, part 56: what a reset of the console establishes, and what an accepted launch is made of (70_reset_and_hazards.md R450
to R454). -/

namespace Sys2Proof.Machine

/-! ### A reset establishes the invariant -/

/-- Every memory of the state is in canonical form and within its length: the part of the invariant a reset does not establish, for
it keeps the memories (R452). -/
structure State.MemoriesWf (s : State) : Prop where
  ram : s.ram.wf 2048 = true
  prg : s.cart.prg.wf s.cart.prgLen = true
  chr : s.cart.chr.wf s.cart.chrLen = true
  video : s.ppu.memoriesWf

/-- The PPU's reset writes all the invariant speaks of but the memories. -/
theorem ppuReset_inv {q : Ppu} (h : q.memoriesWf) : (ppuReset q).Inv := by
  obtain ⟨hnt0, hnt1, hpt0, hpt1, hpal, hoam⟩ := h
  exact { Settled.resetMeetsInvariant.ppu with
    nt0 := hnt0, nt1 := hnt1, pt0 := hpt0, pt1 := hpt1, pal := hpal, oam := hoam }

theorem busReset_inv {s t : State} (h : busReset s = .ok t) (hb : 1 ≤ s.cart.prgBanks) (hs : s.MemoriesWf) : t.Inv := by
  cases (busReset_eq hb).symm.trans h
  exact { Settled.resetMeetsInvariant with
    ram := hs.ram
    prg := by
      rw [cartReset_frame]
      exact hs.prg
    chr := by
      rw [cartReset_frame]
      exact hs.chr
    ppu := ppuReset_inv hs.video }

theorem busReset_cart {s t : State} (h : busReset s = .ok t) (hb : 1 ≤ s.cart.prgBanks) : t.cart = cartReset s.cart := by
  cases (busReset_eq hb).symm.trans h
  rfl

/-- Bank 0, which the mapper's reset selects, is there in every cartridge: with no character bank declared there is still one (R16). -/
theorem cartReset_inRange {c : Cart} (h : 1 ≤ c.prgBanks) : (cartReset c).inRange := by
  unfold cartReset
  split
  case h_1 hm => exact ⟨h, by simp only [hm]⟩
  case h_2 => exact ⟨h, Nat.lt_of_lt_of_le Nat.one_pos (le_max_left 1 c.chrBanks)⟩

/-! ### What an accepted launch is made of -/

/-- Parameters that describe a system: a program bank, memories that fit, and no CHR bytes without a character bank. -/
theorem LaunchParams.ok_construct {l : LaunchParams} (h : l.ok = true) :
    1 ≤ l.construct.cart.prgBanks ∧ l.construct.MemoriesWf ∧ (l.chrBanks = 0 → l.construct.cart.chr = []) := by
  simp only [LaunchParams.ok, Bool.and_eq_true, Bool.or_eq_true, decide_eq_true_eq, List.isEmpty_iff] at h
  obtain ⟨⟨⟨⟨⟨⟨⟨⟨⟨⟨hbank, hchr⟩, hprgWf⟩, hchrWf⟩, hram⟩, hnt0⟩, hnt1⟩, hpt0⟩, hpt1⟩, hpal⟩, hoam⟩ := h
  exact ⟨hbank, ⟨hram, hprgWf, hchrWf, hnt0, hnt1, hpt0, hpt1, hpal, hoam⟩, fun h0 => hchr.resolve_left (by omega)⟩

/-- A launch that answers is the reset of parameters that describe a system. -/
theorem launch_inv {l : LaunchParams} {s : State} (h : launch l = .ok s) : l.ok = true ∧ busReset l.construct = .ok s := by
  unfold launch at h
  split at h
  case isTrue hok => exact ⟨hok, h⟩
  case isFalse => cases h

end Sys2Proof.Machine
end

section
/-! Proofs, part 57: the statement about the launch settled. -/

namespace Sys2Proof.Settled

open Sys2Proof.Machine Sys2Proof.Claims

/-- Settles O57: the reset of the constructed system meets the invariant because its memories fit (`busReset_inv`), and its cartridge
stands at bank 0 (`cartReset_inRange`) with the bytes and bank counts it was launched with. -/
theorem launchMeetsInvariant : Obligations.LaunchMeetsInvariant := by
  intro l s h
  obtain ⟨hok, hreset⟩ := launch_inv h
  obtain ⟨hbank, hwf, hempty⟩ := LaunchParams.ok_construct hok
  have hcart := busReset_cart hreset hbank
  refine ⟨busReset_inv hreset hbank hwf, hcart ▸ cartReset_inRange hbank, fun h0 => ?_⟩
  rw [hcart, cartReset_frame]
  refine ⟨?_, fun n => ?_⟩
  · show 8192 * max 1 l.chrBanks = 8192
    rw [h0]
    rfl
  · show l.construct.cart.chr.read n = 0
    rw [hempty h0, Memory.read_nil]

end Sys2Proof.Settled
end
